-- ==== Sys2Proof/Word.lean ====
section
/-! DEFINITION. The machine's words and the small closed sets the spec names: standards, banks, memory spaces, RGB triples. -/

namespace Sys2Proof

/-- A register or command word, 32 bits (00_scope.md R8). -/
abbrev Word := BitVec 32

/-- A memory byte, a colour index or one colour channel (R7). -/
abbrev Byte := BitVec 8

/-- A byte address on the host bus, 24 bits (20_memory.md R60). -/
abbrev Addr := BitVec 24

/-- The two broadcast standards; as a bit, StdA is 0 and StdB is 1 (00_scope.md R7, 10_state.md R26). -/
inductive Std where
  | stdA
  | stdB
deriving DecidableEq, Repr

/-- The standard a bit selects (30_encoding.md R92). -/
def Std.ofBit : Bool → Std
  | false => .stdA
  | true => .stdB

/-- The bit of a standard (10_state.md R26). -/
def Std.bit : Std → Bool
  | .stdA => false
  | .stdB => true

/-- The two palette banks, PAL[0] and PAL[1] (10_state.md R36). -/
inductive Bank where
  | bank0
  | bank1
deriving DecidableEq, Repr

/-- The other bank: `1 - b` (41_palette.md R161). -/
def Bank.other : Bank → Bank
  | .bank0 => .bank1
  | .bank1 => .bank0

/-- The bit of a bank number (10_state.md R24, ACTIVE_BANK). -/
def Bank.bit : Bank → Bool
  | .bank0 => false
  | .bank1 => true

/-- The two memories on the host bus (20_memory.md R62). -/
inductive Space where
  | inMem
  | outMem
deriving DecidableEq, Repr

/-- An RGB triple of three 8-bit channels (10_state.md R36). -/
structure Rgb where
  r : Byte
  g : Byte
  b : Byte
deriving DecidableEq, Repr

/-- The black triple (0, 0, 0). -/
def Rgb.black : Rgb := ⟨0, 0, 0⟩

/-- A palette table: 256 triples, addressed by the colour index (10_state.md R36). -/
abbrev Palette := Vector Rgb 256

/-- The 32-bit word of a bit at position `i` (00_scope.md R13). -/
def bitAt (b : Bool) (i : Nat) : Word := if b then BitVec.ofNat 32 (2 ^ i) else 0

end Sys2Proof
end

