-- ==== Sys2Proof/Syntax.lean ====
section
/-! DEFINITION. The commands: one constructor per row of spec/opcode_table.json (30_encoding.md R99), with the operand values
the command rules use (R101). -/

namespace Sys2Proof

/-- A command with its operands as the assembler syntax of 30_encoding.md R105 gives them. The ranges of R105 are checked in
WellFormed.lean. -/
inductive Instr where
  /-- NOP (40_config.md R120) -/
  | nop
  /-- SET_STD s (40_config.md R122) -/
  | setStd (s : Std)
  /-- SET_GEOM w, h (40_config.md R124) -/
  | setGeom (w h : Nat)
  /-- SET_FRAME_LEN len (40_config.md R126) -/
  | setFrameLen (len : Nat)
  /-- SET_PHASE imm, centidegrees (41_palette.md R140) -/
  | setPhase (imm : Nat)
  /-- ADJ_PHASE simm, centidegrees (41_palette.md R142) -/
  | adjPhase (simm : Int)
  /-- SET_SAT simm, units of 1/256 (41_palette.md R144) -/
  | setSat (simm : Int)
  /-- ADJ_SAT simm, units of 1/256 (41_palette.md R146) -/
  | adjSat (simm : Int)
  /-- REBUILD (41_palette.md R148) -/
  | rebuild
  /-- TOGGLE_SCAN (42_render.md R180) -/
  | toggleScan
  /-- TOGGLE_BLEND (42_render.md R182) -/
  | toggleBlend
  /-- TOGGLE_LOOP (42_render.md R184) -/
  | toggleLoop
  /-- SET_FILTERS scan, blend, loop (42_render.md R186) -/
  | setFilters (scan blend loop : Bool)
  /-- SET_SCALE n (42_render.md R188) -/
  | setScale (n : Nat)
  /-- RENDER (42_render.md R190) -/
  | render
deriving DecidableEq, Repr

end Sys2Proof
end

