-- ==== Sys2Proof/WellFormed.lean ====
section
/-! DEFINITION. Well-formed commands: every operand in the range 30_encoding.md R105 gives it. -/

namespace Sys2Proof

/-- The operand ranges of 30_encoding.md R105: outside them "an assembler refuses". -/
def Instr.wellFormed : Instr → Bool
  | .nop => true
  | .setStd _ => true
  | .setGeom w h => decide (w ≤ 4095) && decide (h ≤ 4095)
  | .setFrameLen len => decide (len ≤ 16777215)
  | .setPhase imm => decide (imm ≤ 65535)
  | .adjPhase simm => decide (-32768 ≤ simm) && decide (simm ≤ 32767)
  | .setSat simm => decide (-32768 ≤ simm) && decide (simm ≤ 32767)
  | .adjSat simm => decide (-32768 ≤ simm) && decide (simm ≤ 32767)
  | .rebuild => true
  | .toggleScan => true
  | .toggleBlend => true
  | .toggleLoop => true
  | .setFilters _ _ _ => true
  | .setScale n => decide (n ≤ 15)
  | .render => true

end Sys2Proof
end

