-- ==== Sys2Proof/Decode.lean ====
section
/-! DEFINITION. Decoding and encoding of command words (30_encoding.md R90 to R105): total, by OPCODE alone. -/

namespace Sys2Proof

/-- Why a word or a byte string is no command. -/
inductive DecodeError where
  /-- the OPCODE is not in the map of 30_encoding.md R99 (R102) -/
  | illegalOpcode (opcode : Nat)
  /-- not exactly four bytes (R90) -/
  | notOneWord
deriving DecidableEq, Repr

/-- `v[hi:lo]`, bits hi down to lo as an unsigned number (00_scope.md R13). -/
def bitField (v : Word) (hi lo : Nat) : Nat := v.toNat / 2 ^ lo % 2 ^ (hi + 1 - lo)

/-- `v[i]`, one bit (00_scope.md R13). -/
def bitOf (v : Word) (i : Nat) : Bool := decide (bitField v i i = 1)

/-- `sext` of a 16-bit field (00_scope.md R13, 30_encoding.md R96). -/
def sext16 (n : Nat) : Int := if n < 32768 then (n : Int) else (n : Int) - 65536

/-- The command of a word (30_encoding.md R99, R100), its operands extracted by the format of its row (R91 to R98). -/
def decode (w : Word) : Except DecodeError Instr :=
  match bitField w 31 24 with
  | 0x00 => .ok .nop
  | 0x01 => .ok (.setStd (Std.ofBit (bitOf w 0)))
  | 0x02 => .ok (.setGeom (bitField w 23 12) (bitField w 11 0))
  | 0x03 => .ok (.setFrameLen (bitField w 23 0))
  | 0x10 => .ok (.setPhase (bitField w 15 0))
  | 0x11 => .ok (.adjPhase (sext16 (bitField w 15 0)))
  | 0x12 => .ok (.setSat (sext16 (bitField w 15 0)))
  | 0x13 => .ok (.adjSat (sext16 (bitField w 15 0)))
  | 0x14 => .ok .rebuild
  | 0x20 => .ok .toggleScan
  | 0x21 => .ok .toggleBlend
  | 0x22 => .ok .toggleLoop
  | 0x23 => .ok (.setFilters (bitOf w 0) (bitOf w 1) (bitOf w 2))
  | 0x24 => .ok (.setScale (bitField w 3 0))
  | 0x30 => .ok .render
  | op => .error (.illegalOpcode op)

/-- The word whose four bytes stand in this order at rising addresses (little-endian, 20_memory.md R65). -/
def wordOfBytes (b0 b1 b2 b3 : Byte) : Word :=
  BitVec.ofNat 32 (b0.toNat + 256 * b1.toNat + 65536 * b2.toNat + 16777216 * b3.toNat)

/-- Byte `k` of a word, `v[8k+7:8k]` (20_memory.md R65). -/
def byteOf (v : Word) (k : Nat) : Byte := BitVec.ofNat 8 (v.toNat / 2 ^ (8 * k))

/-- Decoding of any byte string: a command is exactly one 32-bit word (30_encoding.md R90). -/
def decodeBytes : List Byte → Except DecodeError Instr
  | [b0, b1, b2, b3] => decode (wordOfBytes b0 b1 b2 b3)
  | _ => .error .notOneWord

/-- The command the decoder reads from the word whose bits are `w`, numbered as spec/opcode_table.json numbers them (bit 0
the least significant bit of the one word): its bytes laid out little-endian and decoded. -/
def decodeTableWord (nbits w : Nat) : Option Instr :=
  let v := BitVec.ofNat 32 (w % 2 ^ nbits)
  (decodeBytes [byteOf v 0, byteOf v 1, byteOf v 2, byteOf v 3]).toOption

/-- A 16-bit signed operand as an unsigned field: `d & 0xFFFF` (30_encoding.md R105). -/
def field16 (d : Int) : Nat := (d % 65536).toNat

/-- A bit as a number. -/
def bitNat (b : Bool) : Nat := if b then 1 else 0

/-- The word an assembler writes for a command: zero in every ignored bit (30_encoding.md R103, R105). -/
def encode : Instr → Word
  | .nop => 0x00000000
  | .setStd s => BitVec.ofNat 32 (0x01000000 + bitNat s.bit)
  | .setGeom w h => BitVec.ofNat 32 (0x02000000 + w * 4096 + h)
  | .setFrameLen len => BitVec.ofNat 32 (0x03000000 + len)
  | .setPhase imm => BitVec.ofNat 32 (0x10000000 + imm)
  | .adjPhase simm => BitVec.ofNat 32 (0x11000000 + field16 simm)
  | .setSat simm => BitVec.ofNat 32 (0x12000000 + field16 simm)
  | .adjSat simm => BitVec.ofNat 32 (0x13000000 + field16 simm)
  | .rebuild => 0x14000000
  | .toggleScan => 0x20000000
  | .toggleBlend => 0x21000000
  | .toggleLoop => 0x22000000
  | .setFilters scan blend loop => BitVec.ofNat 32 (0x23000000 + bitNat loop * 4 + bitNat blend * 2 + bitNat scan)
  | .setScale n => BitVec.ofNat 32 (0x24000000 + n)
  | .render => 0x30000000

/-- The OPCODE of a command's row (30_encoding.md R99). -/
def Instr.opcode : Instr → Nat
  | .nop => 0x00
  | .setStd _ => 0x01
  | .setGeom _ _ => 0x02
  | .setFrameLen _ => 0x03
  | .setPhase _ => 0x10
  | .adjPhase _ => 0x11
  | .setSat _ => 0x12
  | .adjSat _ => 0x13
  | .rebuild => 0x14
  | .toggleScan => 0x20
  | .toggleBlend => 0x21
  | .toggleLoop => 0x22
  | .setFilters _ _ _ => 0x23
  | .setScale _ => 0x24
  | .render => 0x30

/-- The bits of the word that the command's format does not ignore (30_encoding.md R91 to R98). -/
def Instr.usedMask : Instr → Word
  | .nop | .rebuild | .toggleScan | .toggleBlend | .toggleLoop | .render => 0xFF000000
  | .setStd _ => 0xFF000001
  | .setGeom _ _ | .setFrameLen _ => 0xFFFFFFFF
  | .setPhase _ | .adjPhase _ | .setSat _ | .adjSat _ => 0xFF00FFFF
  | .setFilters _ _ _ => 0xFF000007
  | .setScale _ => 0xFF00000F

/-- A bit operand of the assembler: 0 or 1. -/
def asmBit (n : Int) : Option Bool := if n = 0 then some false else if n = 1 then some true else none

/-- An operand that the syntax writes without a sign. -/
def asmNat (n : Int) : Option Nat := if 0 ≤ n then some n.toNat else none

/-- The command a source line names, its mnemonic and its operands already read as numbers (30_encoding.md R105);
`SET_STD A` and `SET_STD B` are the operands 0 and 1, as R105 says. -/
def asmCommand (mnemonic : String) (ops : List Int) : Option Instr :=
  match mnemonic, ops with
  | "NOP", [] => some .nop
  | "SET_STD", [s] => (asmBit s).map fun b => .setStd (Std.ofBit b)
  | "SET_GEOM", [w, h] => (asmNat w).bind fun w => (asmNat h).map fun h => .setGeom w h
  | "SET_FRAME_LEN", [n] => (asmNat n).map .setFrameLen
  | "SET_PHASE", [c] => (asmNat c).map .setPhase
  | "ADJ_PHASE", [d] => some (.adjPhase d)
  | "SET_SAT", [q] => some (.setSat q)
  | "ADJ_SAT", [d] => some (.adjSat d)
  | "REBUILD", [] => some .rebuild
  | "TOGGLE_SCAN", [] => some .toggleScan
  | "TOGGLE_BLEND", [] => some .toggleBlend
  | "TOGGLE_LOOP", [] => some .toggleLoop
  | "SET_FILTERS", [s, b, l] =>
    (asmBit s).bind fun s => (asmBit b).bind fun b => (asmBit l).map fun l => .setFilters s b l
  | "SET_SCALE", [n] => (asmNat n).map .setScale
  | "RENDER", [] => some .render
  | _, _ => none

/-- The assembler of 30_encoding.md R105: it refuses an operand outside the range its form gives. -/
def assemble (mnemonic : String) (ops : List Int) : Option Instr := (asmCommand mnemonic ops).filter Instr.wellFormed

end Sys2Proof
end

