-- ==== Sys2Proof/Config.lean ====
section
/-! DEFINITION. The configuration of 00_scope.md R12 (fixed for the life of the block), its reference values, and the free
values: constants with no body, for what the spec calls "any value". -/

namespace Sys2Proof

/-- A column vector of three rationals. -/
structure Vec3 where
  x : Rat
  y : Rat
  z : Rat
deriving DecidableEq, Repr

/-- A 3x3 matrix of rationals, by rows (00_scope.md R10, R14). -/
structure Mat3 where
  row0 : Vec3
  row1 : Vec3
  row2 : Vec3
deriving DecidableEq, Repr

/-- A winding direction, +1 or -1 (00_scope.md R10, DIR). -/
inductive Winding where
  | plus
  | minus
deriving DecidableEq, Repr

/-- The number of a winding direction. -/
def Winding.sign : Winding → Rat
  | .plus => 1
  | .minus => -1

/-- The opposite direction. -/
def Winding.opposite : Winding → Winding
  | .plus => .minus
  | .minus => .plus

/-- The palette-function parameters of one standard (00_scope.md R10): `REF[s]` and `STEP[s]` in degrees, `DIR[s]`, `M[s]`.
DESIGN CHOICE: rationals (log 10). -/
structure StdParams where
  ref : Rat
  step : Rat
  dir : Winding
  m : Mat3
deriving DecidableEq, Repr

/-- The configuration tuple (00_scope.md R12). -/
structure Config where
  /-- IN_MEM_BYTES (R9) -/
  inMemBytes : Nat
  /-- OUT_MEM_BYTES (R9) -/
  outMemBytes : Nat
  /-- REF, STEP, DIR, M of StdA (R10) -/
  paramsA : StdParams
  /-- REF, STEP, DIR, M of StdB (R10) -/
  paramsB : StdParams
  /-- CHROMA_LEVEL[0..15] (R10) -/
  chromaLevel : Vector Rat 16
  /-- Y_SIDE (R11) -/
  ySide : Nat
  /-- Y_CENTER (R11) -/
  yCenter : Nat
  /-- C_SIDE (R11) -/
  cSide : Nat
  /-- C_CENTER (R11) -/
  cCenter : Nat
  /-- SCAN_ATTEN, over 256 (R11) -/
  scanAtten : Nat
deriving DecidableEq, Repr

/-- The parameters a standard selects (40_config.md R123, 41_palette.md R151). -/
def Config.params (c : Config) : Std → StdParams
  | .stdA => c.paramsA
  | .stdB => c.paramsB

/-- The rational 1/4, the reference chroma scale of luma levels 1 to 15 (00_scope.md R10). -/
def Config.quarter : Rat := ⟨1, 4, by decide, by decide⟩

/-- The reference matrix of StdA (00_scope.md R10; general knowledge, 93_implementation_defined.md G1). -/
def Config.refMatrixA : Mat3 :=
  ⟨⟨1, 0, ⟨113983, 100000, by decide, by decide⟩⟩,
   ⟨1, ⟨-7893, 20000, by decide, by decide⟩, ⟨-2903, 5000, by decide, by decide⟩⟩,
   ⟨1, ⟨203211, 100000, by decide, by decide⟩, 0⟩⟩

/-- The reference matrix of StdB (00_scope.md R10; general knowledge, 93_implementation_defined.md G1). -/
def Config.refMatrixB : Mat3 :=
  ⟨⟨1, 0, ⟨57, 50, by decide, by decide⟩⟩,
   ⟨1, ⟨-79, 200, by decide, by decide⟩, ⟨-581, 1000, by decide, by decide⟩⟩,
   ⟨1, ⟨254, 125, by decide, by decide⟩, 0⟩⟩

/-- The reference configuration (00_scope.md R9, R10, R11, R12). -/
def Config.reference : Config where
  inMemBytes := 65536
  outMemBytes := 4194304
  paramsA := ⟨135, ⟨45, 2, by decide, by decide⟩, .plus, Config.refMatrixA⟩
  paramsB := ⟨180, 24, .minus, Config.refMatrixB⟩
  chromaLevel := #v[0, quarter, quarter, quarter, quarter, quarter, quarter, quarter, quarter, quarter, quarter, quarter,
    quarter, quarter, quarter, quarter]
  ySide := 1
  yCenter := 6
  cSide := 1
  cCenter := 2
  scanAtten := 192

/-- FREE VALUE (log 3): what the byte at an offset of a memory holds after the `n`-th reset, as long as nothing writes it
(10_state.md R42, 70_reset_and_hazards.md R254, 93_implementation_defined.md U2). It stays the same until it is written or
`rst` is applied. -/
opaque Config.unwrittenByte : Space → Nat → Nat → Byte

/-- FREE VALUE (log 8): the `n`-th byte drawn under no law: a host read of the render region during a render
(20_memory.md R69, U4), or a byte of a tainted render (R70, U5). -/
opaque Config.drawnByte : Nat → Byte

/-- FREE VALUE (log 1): which of several enabled agents moves, when the schedule held in State is used up
(00_scope.md R16, 20_memory.md R71, U6). -/
opaque Config.chosenAgent : Nat → Nat

/-- FREE VALUE (log 14): how often the build engine, with a step enabled, may be passed over in its `n`-th wait. A finite number
with no known bound is weak fairness (41_palette.md R163, 70_reset_and_hazards.md R266, U7). -/
opaque Config.buildPatience : Nat → Nat

/-- FREE VALUE (log 14): the same for the render engine (70_reset_and_hazards.md R266, U7). -/
opaque Config.renderPatience : Nat → Nat

end Sys2Proof
end

