-- ==== Sys2Proof/Machine/State.lean ====
section
/-! DEFINITION. The state of the block as plain data (10_state.md R43), the host's side of it, the two reasons a step can stop,
and the state after reset (R42). -/

namespace Sys2Proof.Machine

/-- The width of a host access: 1, 2 or 4 bytes (20_memory.md R60). -/
inductive Width where
  | byte
  | half
  | word
deriving DecidableEq, Repr

/-- The number of bytes of an access. -/
def Width.bytes : Width → Nat
  | .byte => 1
  | .half => 2
  | .word => 4

/-- A host access, `Read(addr, n)` or `Write(addr, n, v)` (20_memory.md R60). A write of fewer than four bytes carries them in
the low bits of `v` (log 11). -/
inductive Access where
  | read (addr : Addr) (n : Width)
  | write (addr : Addr) (n : Width) (v : Word)
deriving DecidableEq, Repr

/-- One line of the host's program: an access, or `POLL a, m, e`, which repeats `RD32 a` until `(value AND m) = e`
(30_encoding.md R106). -/
inductive HostOp where
  | access (a : Access)
  | poll (addr : Addr) (mask expect : Word)
deriving DecidableEq, Repr

/-- Whose step comes next (00_scope.md R16, 20_memory.md R71): the host's, an engine's, or the reset input's
(70_reset_and_hazards.md R250). -/
inductive Agent where
  | host
  | buildEngine
  | renderEngine
  | rst
deriving DecidableEq, Repr

/-- The wait of an engine for its turn: how often it has been passed over with a step enabled, and the number of the wait
(log 14). -/
structure Wait where
  passed : Nat
  round : Nat
deriving DecidableEq, Repr

/-- The waits of the two engines (41_palette.md R163, 70_reset_and_hazards.md R266; log 14). -/
structure Waits where
  build : Wait
  render : Wait
deriving DecidableEq, Repr

/-- The response to the last host access (20_memory.md R60): none yet, OK, or OK with data. A BUS_ERROR stops the step with a
fault instead (log 2), so it is no response here. -/
inductive Response where
  | none
  | ok
  | data (n : Width) (v : Word)
deriving DecidableEq, Repr

/-- The stored fields of STATUS (10_state.md R24). ERR is the OR of `errBits` and is computed. -/
structure Status where
  /-- bit 0, BUILD_BUSY -/
  buildBusy : Bool
  /-- bit 1, BUILD_PENDING -/
  buildPending : Bool
  /-- bit 2, PAL_VALID -/
  palValid : Bool
  /-- bit 3, ACTIVE_BANK -/
  activeBank : Bank
  /-- bit 4, RENDER_BUSY -/
  renderBusy : Bool
  /-- bit 5, RENDER_DONE -/
  renderDone : Bool
  /-- bit 6, FATAL -/
  fatal : Bool
  /-- bits 11:8, ERR_FIRST -/
  errFirst : BitVec 4
  /-- bits 23:16, ERR_BITS -/
  errBits : BitVec 8
deriving DecidableEq, Repr

/-- The fields of CTRL (10_state.md R26). -/
structure Ctrl where
  /-- bit 0, SCAN_EN -/
  scanEn : Bool
  /-- bit 1, BLEND_EN -/
  blendEn : Bool
  /-- bit 2, LOOP_EN -/
  loopEn : Bool
  /-- bit 3, STD -/
  std : Std
  /-- bits 7:4, SCALE -/
  scale : BitVec 4
deriving DecidableEq, Repr

/-- The build snapshot B_STD, B_PHASE, B_SAT (10_state.md R38). -/
structure BuildSnap where
  std : Std
  phase : BitVec 16
  sat : BitVec 16
deriving DecidableEq, Repr

/-- The render snapshot R_W, R_H, R_S, R_SCAN, R_BLEND, R_STD and R_TAINT (10_state.md R39). -/
structure RenderSnap where
  w : BitVec 12
  h : BitVec 12
  scale : BitVec 4
  scan : Bool
  blend : Bool
  std : Std
  taint : Bool
deriving DecidableEq, Repr

/-- A memory: the bytes something has written, by offset, at strictly rising offsets. An offset that is not listed holds no
known value (log 3). -/
abbrev Memory := List Host.Cell

/-- The state: the tuple of 10_state.md R43, the configuration it stands beside, and the model's own fields. -/
structure State where
  /-- the configuration (00_scope.md R12); no step changes it (log 9) -/
  cfg : Config
  /-- STATUS (10_state.md R24) -/
  status : Status
  /-- CTRL (R26) -/
  ctrl : Ctrl
  /-- PHASE (R28), in centidegrees -/
  phase : BitVec 16
  /-- SAT (R29), in units of 1/256 -/
  sat : BitVec 16
  /-- GEOM.W (R30) -/
  geomW : BitVec 12
  /-- GEOM.H (R30) -/
  geomH : BitVec 12
  /-- FRAME_LEN (R31) -/
  frameLen : BitVec 24
  /-- PAL_INDEX (R32) -/
  palIndex : BitVec 8
  /-- PAL[0] (R36) -/
  pal0 : Palette
  /-- PAL[1] (R36) -/
  pal1 : Palette
  /-- B_STD, B_PHASE, B_SAT (R38) -/
  build : BuildSnap
  /-- R_W, R_H, R_S, R_SCAN, R_BLEND, R_STD, R_TAINT (R39) -/
  snap : RenderSnap
  /-- IN_MEM (20_memory.md R62) -/
  inMem : Memory
  /-- OUT_MEM (R62) -/
  outMem : Memory
  /-- the model's own: the response to the last host access (log 15) -/
  resp : Response
  /-- the model's own: what the host will do, in program order (log 1) -/
  prog : List HostOp
  /-- the model's own: whose steps come next (log 1) -/
  turns : List Agent
  /-- the model's own: how long each engine has waited for its turn (log 14) -/
  waits : Waits
  /-- the model's own: how many free values have been drawn (log 8) -/
  draws : Nat
  /-- the model's own: how many times `rst` was applied (log 4) -/
  resets : Nat
deriving DecidableEq, Repr

/-- Why a step stops with a fault. -/
inductive Fault where
  /-- A host access that completes with BUS_ERROR: unmapped, misaligned, or not a 4-byte access to REG (20_memory.md R63, R64,
  R66). Raised by the host's step, never by a command. Safe: the block's state is unchanged and the host's program stops
  (93_implementation_defined.md U8, log 2). -/
  | busError
deriving DecidableEq, Repr

/-- Why a step has no meaning. -/
inductive Refusal where
  /-- A command whose meaning has not been written. Raised only by an arm of `exec`; no arm raises it now. Safe: the run stops. -/
  | notModelled (mnemonic : String)
deriving DecidableEq, Repr

/-- A palette bank with every entry black: what the model names for the unspecified contents after reset (10_state.md R42,
log 5). -/
def blackPalette : Palette := Vector.replicate 256 Rgb.black

/-- The state right after reset of a block with configuration `cfg` (10_state.md R42): no host program, no schedule. -/
def State.resetWith (cfg : Config) : State where
  cfg := cfg
  status :=
    { buildBusy := false, buildPending := true, palValid := false, activeBank := .bank0, renderBusy := false,
      renderDone := false, fatal := false, errFirst := 0, errBits := 0 }
  ctrl := { scanEn := true, blendEn := true, loopEn := false, std := .stdA, scale := 1 }
  phase := 0
  sat := 0x0100
  geomW := 0
  geomH := 0
  frameLen := 0
  palIndex := 0
  pal0 := blackPalette
  pal1 := blackPalette
  build := { std := .stdA, phase := 0, sat := 0 }
  snap := { w := 0, h := 0, scale := 0, scan := false, blend := false, std := .stdA, taint := false }
  inMem := []
  outMem := []
  resp := .none
  prog := []
  turns := []
  waits := { build := { passed := 0, round := 0 }, render := { passed := 0, round := 0 } }
  draws := 0
  resets := 0

/-- The machine right after reset, with the reference configuration (00_scope.md R12, 10_state.md R42; log 9). -/
def State.reset : State := State.resetWith Config.reference

end Sys2Proof.Machine
end

