-- ==== Sys2Proof/Machine/Ops.lean ====
section
/-! DEFINITION. The named operations over registers and memory: updates of one register, memory reads and writes, recording an
error (the block's whole exception mechanism, 60_exceptions.md R222, R224) and the reset event (70_reset_and_hazards.md R250). -/

namespace Sys2Proof.Machine

/-! ### Updates of one register or field -/

/-- STATUS <- v -/
def State.setStatus (s : State) (v : Status) : State := { s with status := v }
/-- CTRL <- v -/
def State.setCtrl (s : State) (v : Ctrl) : State := { s with ctrl := v }
/-- PHASE <- v -/
def State.setPhase (s : State) (v : BitVec 16) : State := { s with phase := v }
/-- SAT <- v -/
def State.setSat (s : State) (v : BitVec 16) : State := { s with sat := v }
/-- GEOM.W <- w; GEOM.H <- h -/
def State.setGeom (s : State) (w h : BitVec 12) : State := { s with geomW := w, geomH := h }
/-- FRAME_LEN <- v -/
def State.setFrameLen (s : State) (v : BitVec 24) : State := { s with frameLen := v }
/-- PAL_INDEX <- v -/
def State.setPalIndex (s : State) (v : BitVec 8) : State := { s with palIndex := v }
/-- B_STD, B_PHASE, B_SAT <- v -/
def State.setBuild (s : State) (v : BuildSnap) : State := { s with build := v }
/-- R_W, ..., R_TAINT <- v -/
def State.setSnap (s : State) (v : RenderSnap) : State := { s with snap := v }
/-- the response of a host access -/
def State.setResp (s : State) (v : Response) : State := { s with resp := v }
/-- the rest of the host's program -/
def State.setProg (s : State) (v : List HostOp) : State := { s with prog := v }
/-- the rest of the schedule -/
def State.setTurns (s : State) (v : List Agent) : State := { s with turns := v }
/-- how long each engine has waited -/
def State.setWaits (s : State) (v : Waits) : State := { s with waits := v }
/-- the counter of free values -/
def State.setDraws (s : State) (n : Nat) : State := { s with draws := n }

/-- `PAL[b]` (10_state.md R36). -/
def State.bank (s : State) : Bank → Palette
  | .bank0 => s.pal0
  | .bank1 => s.pal1

/-- `PAL[b] <- p`: only the build engine does this (10_state.md R36). -/
def State.setBank (s : State) (b : Bank) (p : Palette) : State :=
  match b with
  | .bank0 => { s with pal0 := p }
  | .bank1 => { s with pal1 := p }

/-- A memory of the host bus (20_memory.md R62). -/
def State.mem (s : State) : Space → Memory
  | .inMem => s.inMem
  | .outMem => s.outMem

/-- Replace a memory. -/
def State.setMem (s : State) (sp : Space) (m : Memory) : State :=
  match sp with
  | .inMem => { s with inMem := m }
  | .outMem => { s with outMem := m }

/-! ### Memory -/

/-- What a memory lists at an offset: the byte last written there, or no value. -/
def Memory.get? : Memory → Nat → Option Byte
  | [], _ => none
  | (k, b) :: m, a => if k = a then some b else Memory.get? m a

/-- Write one byte, keeping the offsets strictly rising. -/
def Memory.set : Memory → Nat → Byte → Memory
  | [], a, v => [(a, v)]
  | (k, b) :: m, a, v =>
    if a < k then (a, v) :: (k, b) :: m
    else if a = k then (a, v) :: m
    else (k, b) :: Memory.set m a v

/-- The cells of a byte string that stands from offset `a` on. -/
def Memory.cells : Nat → List Byte → Memory
  | _, [] => []
  | a, b :: bs => (a, b) :: Memory.cells (a + 1) bs

/-- Write a byte string at offsets 0, 1, ...; offsets past its end are not written (42_render.md R201). -/
def Memory.setPrefix (m : Memory) (bs : List Byte) : Memory :=
  Memory.cells 0 bs ++ m.filter fun c => decide (bs.length ≤ c.1)

/-- The canonical form: offsets strictly rising. An unlisted offset has no known value (log 3), so no listed byte is redundant. -/
def Memory.wf : Memory → Bool
  | [] => true
  | c :: m => m.all (fun d => decide (c.1 < d.1)) && Memory.wf m

/-- What an offset nothing has written since the last reset reads as (10_state.md R42, 93_implementation_defined.md U2): a free
value, the same at every read until a write or `rst` (log 3, log 4). -/
def State.unwritten (s : State) (sp : Space) (a : Nat) : Byte := Config.unwrittenByte sp s.resets a

/-- The byte of a memory at an offset. -/
def State.readByte (s : State) (sp : Space) (a : Nat) : Byte := ((s.mem sp).get? a).getD (s.unwritten sp a)

/-- Store one byte. -/
def State.writeByte (s : State) (sp : Space) (a : Nat) (v : Byte) : State := s.setMem sp ((s.mem sp).set a v)

/-- A word from its bytes, the first the least significant (20_memory.md R65). -/
def littleEndian : List Byte → Nat
  | [] => 0
  | b :: bs => b.toNat + 256 * littleEndian bs

/-- `{byte(a+n-1), ..., byte(a)}` zero-extended (20_memory.md R65, 00_scope.md R15 MemRead). -/
def State.memRead (s : State) (sp : Space) (a n : Nat) : Word :=
  BitVec.ofNat 32 (littleEndian ((List.range n).map fun k => s.readByte sp (a + k)))

/-- Store byte `v[8k+7:8k]` at offset `a + k` for k = 0..n-1 (20_memory.md R65, 00_scope.md R15 MemWrite). -/
def State.memWrite (s : State) (sp : Space) (a : Nat) (v : Word) : Nat → State
  | 0 => s
  | n + 1 => (s.memWrite sp a v n).writeByte sp (a + n) (byteOf v n)

/-! ### Recording an error -/

/-- The error codes (60_exceptions.md R220). -/
inductive ErrorCode where
  | illegalOpcode
  | badOperand
  | busy
  | notConfigured
  | capacity
  | geometryMismatch
  | renderHazard
  | renderRefused
deriving DecidableEq, Repr

/-- The number of an error code (60_exceptions.md R220). -/
def ErrorCode.num : ErrorCode → Nat
  | .illegalOpcode => 1
  | .badOperand => 2
  | .busy => 3
  | .notConfigured => 4
  | .capacity => 5
  | .geometryMismatch => 6
  | .renderHazard => 7
  | .renderRefused => 8

/-- The bit of ERR_BITS that a code sets (60_exceptions.md R222). -/
def ErrorCode.bit (c : ErrorCode) : BitVec 8 := BitVec.ofNat 8 (2 ^ (c.num - 1))

/-- The error-recording action on STATUS (60_exceptions.md R222). -/
def Status.record (st : Status) (c : ErrorCode) : Status :=
  { st with
    errFirst := if st.errBits = 0 then BitVec.ofNat 4 c.num else st.errFirst
    errBits := st.errBits ||| c.bit
    fatal := st.fatal || decide (c = .geometryMismatch) }

/-- `raise Error(c)` and "record error c": the error is recorded in STATUS and nothing else changes; there is no vector, no
saved state, no mode and so no return (60_exceptions.md R222, R223, R224). -/
def State.recordError (s : State) (c : ErrorCode) : State := s.setStatus (s.status.record c)

/-! ### Reset -/

/-- The reset event (70_reset_and_hazards.md R250): every piece of the block's state takes its value of 10_state.md R42. The
configuration stays; the host's program, the schedule with its waits and the counters of free values are not the block's (log 4,
log 18). -/
def State.applyReset (s : State) : State :=
  { State.resetWith s.cfg with
    prog := s.prog, turns := s.turns, waits := s.waits, draws := s.draws, resets := s.resets + 1 }

end Sys2Proof.Machine
end

