-- ==== Sys2Proof/Machine/Flags.lean ====
section
/-! DEFINITION. The block's only flags, the STATUS bits (10_state.md R24, R25, R41): the word, the write-1-to-clear rule, and the
setters the commands use. -/

namespace Sys2Proof.Machine

/-- STATUS.ERR: the OR of ERR_BITS (10_state.md R24). -/
def Status.err (st : Status) : Bool := decide (st.errBits ≠ 0)

/-- The word a read of STATUS returns (10_state.md R24). -/
def Status.word (st : Status) : Word :=
  bitAt st.buildBusy 0 ||| bitAt st.buildPending 1 ||| bitAt st.palValid 2 ||| bitAt st.activeBank.bit 3 |||
  bitAt st.renderBusy 4 ||| bitAt st.renderDone 5 ||| bitAt st.fatal 6 ||| bitAt st.err 7 |||
  (st.errFirst.setWidth 32 <<< 8) ||| (st.errBits.setWidth 32 <<< 16)

/-- What a write of `v` leaves of ERR_BITS: `ERR_BITS AND NOT v[23:16]` (10_state.md R25). -/
def Status.errBitsAfter (st : Status) (v : Word) : BitVec 8 := st.errBits &&& ~~~ (v.extractLsb' 16 8)

/-- A write of `v` to STATUS (10_state.md R25). -/
def Status.write (st : Status) (v : Word) : Status :=
  { st with
    renderDone := st.renderDone && !v.getLsbD 5
    errBits := st.errBitsAfter v
    errFirst := if st.errBitsAfter v = 0 then 0 else st.errFirst }

/-- `STATUS.BUILD_PENDING <- 1`, what every palette-input command does (41_palette.md R162). -/
def State.requestBuild (s : State) : State := s.setStatus { s.status with buildPending := true }

/-- The build engine's start condition: `BUILD_PENDING = 1 and BUILD_BUSY = 0` (41_palette.md R160). -/
def Status.buildCanStart (st : Status) : Bool := st.buildPending && !st.buildBusy

/-- The build engine has an enabled step: start (R160), or complete, enabled when `BUILD_BUSY = 1` (R161). -/
def Status.buildEnabled (st : Status) : Bool := st.buildBusy || st.buildPending

/-- The render engine's condition: `RENDER_BUSY = 1 and PAL_VALID = 1` (42_render.md R201). -/
def Status.renderEnabled (st : Status) : Bool := st.renderBusy && st.palValid

end Sys2Proof.Machine
end

