-- ==== Sys2Proof/Machine/Operands.lean ====
section
/-! DEFINITION. What the operand of a command stores: one function per operand form and register it goes to (30_encoding.md
R101, with the normalizing and clamping of 41_palette.md). -/

namespace Sys2Proof.Machine

/-- Format G, one half: a 12-bit field of GEOM (30_encoding.md R93, 40_config.md R124). -/
def geomField (n : Nat) : BitVec 12 := BitVec.ofNat 12 n

/-- Format L: the value of FRAME_LEN (30_encoding.md R94, 40_config.md R126). -/
def lengthField (n : Nat) : BitVec 24 := BitVec.ofNat 24 n

/-- Format S4: the value of SCALE (30_encoding.md R98, 42_render.md R188). -/
def scaleField (n : Nat) : BitVec 4 := BitVec.ofNat 4 n

/-- A phase in centidegrees, normalized to 0..35999 by the mathematical remainder (41_palette.md R140, R142). -/
def phaseMod (x : Int) : BitVec 16 := BitVec.ofNat 16 (x % 36000).toNat

/-- `clamp(x, lo, hi) = min(hi, max(lo, x))` (00_scope.md R14). -/
def clamp (x lo hi : Int) : Int := min hi (max lo x)

/-- Format U16 into PHASE: `imm mod 36000` (41_palette.md R140). -/
def phaseSet (imm : Nat) : BitVec 16 := phaseMod imm

/-- Format S16 onto PHASE: `(PHASE + simm) mod 36000` (41_palette.md R142). -/
def phaseAdjust (phase : BitVec 16) (simm : Int) : BitVec 16 := phaseMod (phase.toNat + simm)

/-- Format S16 into SAT: `max(simm, 0)` (41_palette.md R144). -/
def satSet (simm : Int) : BitVec 16 := BitVec.ofNat 16 (max simm 0).toNat

/-- Format S16 onto SAT: `clamp(SAT + simm, 0, 0x7FFF)` (41_palette.md R146). -/
def satAdjust (sat : BitVec 16) (simm : Int) : BitVec 16 := BitVec.ofNat 16 (clamp (sat.toNat + simm) 0 0x7FFF).toNat

end Sys2Proof.Machine
end

