-- ==== Sys2Proof/Machine/ConfigCommands.lean ====
section
/-! DEFINITION. The configuration commands (40_config.md): NOP, SET_STD, SET_GEOM, SET_FRAME_LEN. -/

namespace Sys2Proof.Machine

/-- NOP: nothing (40_config.md R120). -/
def execNop (s : State) : Host.Outcome State Fault Refusal := .next s

/-- SET_STD: `CTRL.STD <- s; STATUS.BUILD_PENDING <- 1` (40_config.md R122). -/
def execSetStd (std : Std) (s : State) : Host.Outcome State Fault Refusal :=
  .next (s.setCtrl { s.ctrl with std := std }).requestBuild

/-- SET_GEOM: BAD_OPERAND when w = 0 or h = 0, else GEOM takes both (40_config.md R124). -/
def execSetGeom (w h : Nat) (s : State) : Host.Outcome State Fault Refusal :=
  if geomField w = 0 ∨ geomField h = 0 then .next (s.recordError .badOperand)
  else .next (s.setGeom (geomField w) (geomField h))

/-- SET_FRAME_LEN: `FRAME_LEN <- len` (40_config.md R126). -/
def execSetFrameLen (len : Nat) (s : State) : Host.Outcome State Fault Refusal :=
  .next (s.setFrameLen (lengthField len))

end Sys2Proof.Machine
end

