-- ==== Sys2Proof/Machine/FilterCommands.lean ====
section
/-! DEFINITION. The filter-state commands (42_render.md section 1): TOGGLE_SCAN, TOGGLE_BLEND, TOGGLE_LOOP, SET_FILTERS, SET_SCALE. -/

namespace Sys2Proof.Machine

/-- TOGGLE_SCAN: `CTRL.SCAN_EN <- 1 - CTRL.SCAN_EN` (42_render.md R180). -/
def execToggleScan (s : State) : Host.Outcome State Fault Refusal :=
  .next (s.setCtrl { s.ctrl with scanEn := !s.ctrl.scanEn })

/-- TOGGLE_BLEND: `CTRL.BLEND_EN <- 1 - CTRL.BLEND_EN` (42_render.md R182). -/
def execToggleBlend (s : State) : Host.Outcome State Fault Refusal :=
  .next (s.setCtrl { s.ctrl with blendEn := !s.ctrl.blendEn })

/-- TOGGLE_LOOP: `CTRL.LOOP_EN <- 1 - CTRL.LOOP_EN` (42_render.md R184). -/
def execToggleLoop (s : State) : Host.Outcome State Fault Refusal :=
  .next (s.setCtrl { s.ctrl with loopEn := !s.ctrl.loopEn })

/-- SET_FILTERS: the three filter bits at once (42_render.md R186). -/
def execSetFilters (scan blend loop : Bool) (s : State) : Host.Outcome State Fault Refusal :=
  .next (s.setCtrl { s.ctrl with scanEn := scan, blendEn := blend, loopEn := loop })

/-- SET_SCALE: BAD_OPERAND when n = 0, else `CTRL.SCALE <- n` (42_render.md R188). -/
def execSetScale (n : Nat) (s : State) : Host.Outcome State Fault Refusal :=
  if scaleField n = 0 then .next (s.recordError .badOperand)
  else .next (s.setCtrl { s.ctrl with scale := scaleField n })

end Sys2Proof.Machine
end

