-- ==== Sys2Proof/Machine/PaletteCommands.lean ====
section
/-! DEFINITION. The phase and saturation commands (41_palette.md section 1): SET_PHASE, ADJ_PHASE, SET_SAT, ADJ_SAT, REBUILD. -/

namespace Sys2Proof.Machine

/-- SET_PHASE: `PHASE <- imm mod 36000; BUILD_PENDING <- 1` (41_palette.md R140). -/
def execSetPhase (imm : Nat) (s : State) : Host.Outcome State Fault Refusal :=
  .next (s.setPhase (phaseSet imm)).requestBuild

/-- ADJ_PHASE: `PHASE <- (PHASE + simm) mod 36000; BUILD_PENDING <- 1` (41_palette.md R142). -/
def execAdjPhase (simm : Int) (s : State) : Host.Outcome State Fault Refusal :=
  .next (s.setPhase (phaseAdjust s.phase simm)).requestBuild

/-- SET_SAT: `SAT <- max(simm, 0); BUILD_PENDING <- 1` (41_palette.md R144). -/
def execSetSat (simm : Int) (s : State) : Host.Outcome State Fault Refusal :=
  .next (s.setSat (satSet simm)).requestBuild

/-- ADJ_SAT: `SAT <- clamp(SAT + simm, 0, 0x7FFF); BUILD_PENDING <- 1` (41_palette.md R146). -/
def execAdjSat (simm : Int) (s : State) : Host.Outcome State Fault Refusal :=
  .next (s.setSat (satAdjust s.sat simm)).requestBuild

/-- REBUILD: `BUILD_PENDING <- 1` (41_palette.md R148). -/
def execRebuild (s : State) : Host.Outcome State Fault Refusal := .next s.requestBuild

end Sys2Proof.Machine
end

