-- ==== Sys2Proof/Machine/RenderCommand.lean ====
section
/-! DEFINITION. The RENDER command (42_render.md R190): the checks in their order and the accept. -/

namespace Sys2Proof.Machine

/-- The number of input bytes of a frame, `W * H` (42_render.md R190). -/
def frameBytes (w h : BitVec 12) : Nat := w.toNat * h.toNat

/-- The number of output bytes of a frame, `3 * (W*S) * (H*S)` (42_render.md R190, R201). -/
def outputBytes (w h : BitVec 12) (scale : BitVec 4) : Nat :=
  3 * (w.toNat * scale.toNat) * (h.toNat * scale.toNat)

/-- The length of the IN_MEM range the accepted render reads, `R_W * R_H` (20_memory.md R68). -/
def State.inputLen (s : State) : Nat := frameBytes s.snap.w s.snap.h

/-- The length of the render region of OUT_MEM, `3 * (R_W*R_S) * (R_H*R_S)` (20_memory.md R68). -/
def State.regionLen (s : State) : Nat := outputBytes s.snap.w s.snap.h s.snap.scale

/-- The snapshot an accept takes (42_render.md R190, 10_state.md R39). -/
def State.takeSnap (s : State) : RenderSnap :=
  { w := s.geomW, h := s.geomH, scale := s.ctrl.scale, scan := s.ctrl.scanEn, blend := s.ctrl.blendEn, std := s.ctrl.std,
    taint := false }

/-- The accept: the snapshot is taken, `R_TAINT <- 0; RENDER_DONE <- 0; RENDER_BUSY <- 1` (42_render.md R190). -/
def State.acceptRender (s : State) : State :=
  (s.setSnap s.takeSnap).setStatus { s.status with renderDone := false, renderBusy := true }

/-- The first check of R190 that fails, in its order; none when the RENDER is accepted. -/
def State.renderCheck (s : State) : Option ErrorCode :=
  if s.status.fatal then some .renderRefused
  else if s.status.renderBusy then some .busy
  else if s.geomW = 0 ∨ s.geomH = 0 then some .notConfigured
  else if s.frameLen.toNat ≠ frameBytes s.geomW s.geomH then some .geometryMismatch
  else if frameBytes s.geomW s.geomH > s.cfg.inMemBytes ∨
      outputBytes s.geomW s.geomH s.ctrl.scale > s.cfg.outMemBytes then some .capacity
  else none

/-- RENDER: the first failing check raises its error; otherwise the frame is accepted (42_render.md R190, 60_exceptions.md
R221). -/
def execRender (s : State) : Host.Outcome State Fault Refusal :=
  match s.renderCheck with
  | some c => .next (s.recordError c)
  | none => .next s.acceptRender

end Sys2Proof.Machine
end

