-- ==== Sys2Proof/Machine/Dispatch.lean ====
section
/-! DEFINITION. The meaning of a command: one arm per constructor of Instr. -/

namespace Sys2Proof.Machine

/-- The command unit executes one command, completely (10_state.md R21, 40_config.md R121). -/
def exec (i : Instr) (s : State) : Host.Outcome State Fault Refusal :=
  match i with
  | .nop => Sys2Proof.Machine.execNop s
  | .setStd std => Sys2Proof.Machine.execSetStd std s
  | .setGeom w h => Sys2Proof.Machine.execSetGeom w h s
  | .setFrameLen len => Sys2Proof.Machine.execSetFrameLen len s
  | .setPhase imm => Sys2Proof.Machine.execSetPhase imm s
  | .adjPhase simm => Sys2Proof.Machine.execAdjPhase simm s
  | .setSat simm => Sys2Proof.Machine.execSetSat simm s
  | .adjSat simm => Sys2Proof.Machine.execAdjSat simm s
  | .rebuild => Sys2Proof.Machine.execRebuild s
  | .toggleScan => Sys2Proof.Machine.execToggleScan s
  | .toggleBlend => Sys2Proof.Machine.execToggleBlend s
  | .toggleLoop => Sys2Proof.Machine.execToggleLoop s
  | .setFilters scan blend loop => Sys2Proof.Machine.execSetFilters scan blend loop s
  | .setScale n => Sys2Proof.Machine.execSetScale n s
  | .render => Sys2Proof.Machine.execRender s

end Sys2Proof.Machine
end

