-- ==== Sys2Proof/Machine/Matrix.lean ====
section
/-! DEFINITION. 3x3 rational matrices (00_scope.md R14): product with a column vector, determinant, inverse. -/

namespace Sys2Proof.Machine

/-- A row times a column. -/
def dot (a b : Vec3) : Rat := a.x * b.x + a.y * b.y + a.z * b.z

/-- The ordinary product of a matrix and a column vector (00_scope.md R14). -/
def mulVec (m : Mat3) (v : Vec3) : Vec3 := ⟨dot m.row0 v, dot m.row1 v, dot m.row2 v⟩

/-- The cross product: the cofactors of two rows. -/
def cross (a b : Vec3) : Vec3 :=
  ⟨a.y * b.z - a.z * b.y, a.z * b.x - a.x * b.z, a.x * b.y - a.y * b.x⟩

/-- The determinant. -/
def det (m : Mat3) : Rat := dot m.row0 (cross m.row1 m.row2)

/-- A vector divided by a number. -/
def vecOver (v : Vec3) (d : Rat) : Vec3 := ⟨v.x / d, v.y / d, v.z / d⟩

/-- The inverse `M⁻¹`, by cofactors; its columns are the cross products of the rows over the determinant (00_scope.md R14). For
a singular matrix, which no legal configuration has, it is the zero matrix (log 21). -/
def inverse (m : Mat3) : Mat3 :=
  let c0 := cross m.row1 m.row2
  let c1 := cross m.row2 m.row0
  let c2 := cross m.row0 m.row1
  ⟨vecOver ⟨c0.x, c1.x, c2.x⟩ (det m), vecOver ⟨c0.y, c1.y, c2.y⟩ (det m), vecOver ⟨c0.z, c1.z, c2.z⟩ (det m)⟩

/-- `rnd(x) = floor(x + 1/2)`, round half up (00_scope.md R14). -/
def rnd (x : Rat) : Int := ⌊x + 1 / 2⌋

end Sys2Proof.Machine
end

