-- ==== Sys2Proof/Machine/Trig.lean ====
section
/-! DEFINITION. Exact rounding of `A + B·cosd(θ) + D·sind(θ)` for rational A, B, D and θ in degrees, by rational enclosures. The
palette rule works "exact in ℝ until rnd" (41_palette.md R152); `floorForm` is the floor of the real number itself:
Sys2Proof/Laws/Trig.lean proves `floorForm_exact`. -/

namespace Sys2Proof.Machine

/-- The first `n` terms of the series of arctan (1/k). -/
def arctanInv (k : Nat) : Nat → Rat
  | 0 => 0
  | n + 1 => arctanInv k n + (if n % 2 = 0 then 1 else -1) / (((2 * n + 1) * k ^ (2 * n + 1) : Nat) : Rat)

/-- A rational within `4 / 25^n` of π (Machin's formula). -/
def piApprox (n : Nat) : Rat := 16 * arctanInv 5 n - 4 * arctanInv 239 n

/-- Real and imaginary part of the sum over m < n of `(i x)^m · k! / (k+m)!`; at k = 0 the first `n` terms of `e^(i x)`. -/
def expTail (x : Rat) : Nat → Nat → Rat × Rat
  | 0, _ => (0, 0)
  | n + 1, k =>
    let r := expTail x n (k + 1)
    let t := x / ((k + 1 : Nat) : Rat)
    (1 - t * r.2, t * r.1)

/-- The fraction of a full turn that an angle of θ degrees is, modulo whole turns: the numerator. -/
def turnNum (θ : Rat) : Nat := ((θ / 360).num % ((θ / 360).den : Int)).toNat

/-- The denominator of that fraction, in lowest terms. -/
def turnDen (θ : Rat) : Nat := (θ / 360).den

/-- The angle in radians, reduced to one turn, to about `p` binary places. -/
def arcApprox (θ : Rat) (p : Nat) : Rat :=
  (⌊2 * ((turnNum θ : Rat) / (turnDen θ : Rat)) * piApprox (p / 4 + 4) * (2 ^ (p + 2) : Nat)⌋ : Rat) / (2 ^ (p + 2) : Nat)

/-- (cosd θ, sind θ), each within `1 / 2^p` (00_scope.md R14). -/
def unitPoint (θ : Rat) (p : Nat) : Rat × Rat := expTail (arcApprox θ p) (p + 22) 0

/-- The floors of the two ends of an interval that holds `A + B·cosd θ + D·sind θ`. -/
def enclose (A B D θ : Rat) (p : Nat) : Int × Int :=
  let u := unitPoint θ p
  let mid := A + B * u.1 + D * u.2
  let err := (|B| + |D|) / ((2 ^ p : Nat) : Rat)
  (⌊mid - err⌋, ⌊mid + err⌋)

/-- The floor, once an interval decides it; the precision doubles until then, at most `f` times. -/
def refine (A B D θ : Rat) : Nat → Nat → Int
  | 0, p => (enclose A B D θ p).2
  | f + 1, p =>
    let e := enclose A B D θ p
    if e.1 = e.2 then e.2 else refine A B D θ f (2 * p)

/-- A bound on every conjugate of the algebraic integer that decides the floor (Laws/Trig.lean, `form_gap`). -/
def formBase (A B D : Rat) : Nat :=
  2 * (A.den * B.den * D.den) * (2 * B.num.natAbs + 2 * D.num.natAbs + 1)

/-- A precision at which an undecided interval can only hold the integer itself. -/
def formBits (A B D θ : Rat) : Nat :=
  (4 * turnDen θ + 1) * (Nat.log2 (formBase A B D) + 1)

/-- `floor(A + B·cosd(θ) + D·sind(θ))` (00_scope.md R14). -/
def floorForm (A B D θ : Rat) : Int := refine A B D θ (Nat.log2 (formBits A B D θ)) 32

end Sys2Proof.Machine
end

