-- ==== Sys2Proof/Machine/Palette.lean ====
section
/-! DEFINITION. The palette function (41_palette.md section 2) and the build engine (section 3). -/

namespace Sys2Proof.Machine

/-- `clamp8(x) = clamp(x, 0, 255)` as a channel (00_scope.md R14). -/
def clamp8 (x : Int) : Byte := BitVec.ofNat 8 (clamp x 0 255).toNat

/-- The hue level of a colour index, `i[7:4]` (41_palette.md R150). -/
def hueLevel (i : Nat) : Nat := i / 16

/-- The luma level of a colour index, `i[3:0]` (41_palette.md R150). -/
def lumaLevel (i : Nat) : Nat := i % 16

/-- `base_angle(s, h) = REF[s] + DIR[s] · STEP[s] · h`, degrees (41_palette.md R151). -/
def baseAngle (cfg : Config) (s : Std) (h : Nat) : Rat :=
  (cfg.params s).ref + (cfg.params s).dir.sign * (cfg.params s).step * (h : Rat)

/-- `CHROMA_LEVEL[l]` (00_scope.md R10). -/
def chromaLevel (cfg : Config) (l : Nat) : Rat := cfg.chromaLevel.toArray.getD l 0

/-- The chroma angle `theta = base_angle(s, h) + P / 100`, degrees (41_palette.md R152). -/
def chromaAngle (cfg : Config) (s : Std) (phase : BitVec 16) (i : Nat) : Rat :=
  baseAngle cfg s (hueLevel i) + (phase.toNat : Rat) / 100

/-- The luma value `Y = l / 15` (41_palette.md R154). -/
def lumaValue (i : Nat) : Rat := (lumaLevel i : Rat) / 15

/-- The chroma magnitude `C = (Q / 256) · CHROMA_LEVEL[l]` (41_palette.md R155). -/
def chromaMagnitude (cfg : Config) (sat : BitVec 16) (i : Nat) : Rat :=
  (sat.toNat : Rat) / 256 * chromaLevel cfg (lumaLevel i)

/-- One channel: `clamp8(rnd(255 · x))` for x the product of one row of `M[s]` with (Y, C·cosd θ, C·sind θ), exact in ℝ
(41_palette.md R152, R156, R157). -/
def channel (row : Vec3) (y c θ : Rat) : Byte :=
  clamp8 (floorForm (255 * (row.x * y) + 1 / 2) (255 * (row.y * c)) (255 * (row.z * c)) θ)

/-- Entry `i` of `build(s, P, Q)` (41_palette.md R152). -/
def buildEntry (cfg : Config) (s : Std) (phase sat : BitVec 16) (i : Nat) : Rgb :=
  let y := lumaValue i
  let c := chromaMagnitude cfg sat i
  let θ := chromaAngle cfg s phase i
  let m := (cfg.params s).m
  ⟨channel m.row0 y c θ, channel m.row1 y c θ, channel m.row2 y c θ⟩

/-- `build(s, P, Q)`: the table of 256 triples (41_palette.md R152). -/
def buildTable (cfg : Config) (s : Std) (phase sat : BitVec 16) : Palette :=
  ⟨((List.range 256).map (buildEntry cfg s phase sat)).toArray, by simp⟩

/-- Build start (41_palette.md R160): the snapshot is taken; `BUILD_PENDING <- 0; BUILD_BUSY <- 1`. -/
def State.startBuild (s : State) : State :=
  (s.setBuild { std := s.ctrl.std, phase := s.phase, sat := s.sat }).setStatus
    { s.status with buildPending := false, buildBusy := true }

/-- The table the build in progress computes, from its snapshot (41_palette.md R161). -/
def State.builtTable (s : State) : Palette := buildTable s.cfg s.build.std s.build.phase s.build.sat

/-- Build complete (41_palette.md R161): the inactive bank takes the table and becomes active; `PAL_VALID <- 1;
BUILD_BUSY <- 0`. -/
def State.completeBuild (s : State) : State :=
  (s.setBank s.status.activeBank.other s.builtTable).setStatus
    { s.status with activeBank := s.status.activeBank.other, palValid := true, buildBusy := false }

/-- One step of the build engine: complete when it is busy, start when a build is pending, nothing when neither is enabled
(41_palette.md R160, R161; log 13). -/
def State.buildStep (s : State) : State :=
  if s.status.buildBusy then s.completeBuild
  else if s.status.buildPending then s.startBuild
  else s

end Sys2Proof.Machine
end

