-- ==== Sys2Proof/Machine/Render.lean ====
section
/-! DEFINITION. The render function and the render engine (42_render.md section 3). -/

namespace Sys2Proof.Machine

/-- The triple a palette holds for a colour index (10_state.md R36). -/
def paletteEntry (pal : Palette) (i : Byte) : Rgb := pal[i.toNat]'(i.isLt)

/-- A frame of triples, pixel (x, y) at index `y*W + x` (42_render.md R203). -/
abbrev Frame := Array Rgb

/-- Pixel (x, y) of a frame `w` pixels wide. -/
def pxAt (f : Frame) (w x y : Nat) : Rgb := f.getD (y * w + x) Rgb.black

/-- Step 1, palette mapping (42_render.md R203). -/
def baseFrame (inp : Nat → Byte) (w h : Nat) (pal : Palette) : Frame :=
  ((List.range (w * h)).map fun k => paletteEntry pal (inp k)).toArray

/-- A triple as a column vector on the 0..255 scale (42_render.md R204). -/
def rgbVec (p : Rgb) : Vec3 := ⟨(p.r.toNat : Rat), (p.g.toNat : Rat), (p.b.toNat : Rat)⟩

/-- The weighted average of a component and its neighbours, `(side·l + center·m + side·r) / (2·side + center)` (R204). -/
def weighted (side center : Nat) (l m r : Rat) : Rat :=
  ((side : Rat) * l + (center : Rat) * m + (side : Rat) * r) / ((2 * side + center : Nat) : Rat)

/-- The blended luma/chroma vector of a pixel and its two neighbours: luma with one kernel, both chroma components with the
other (42_render.md R204). -/
def blendVec (cfg : Config) (l m r : Vec3) : Vec3 :=
  ⟨weighted cfg.ySide cfg.yCenter l.x m.x r.x, weighted cfg.cSide cfg.cCenter l.y m.y r.y,
   weighted cfg.cSide cfg.cCenter l.z m.z r.z⟩

/-- The blended pixel: to the luma/chroma domain by `M[s]⁻¹`, the weighted averages, back by `M[s]`, `clamp8(rnd(..))`
(42_render.md R204). -/
def blendPixel (cfg : Config) (s : Std) (l m r : Rgb) : Rgb :=
  let a := inverse (cfg.params s).m
  let v := mulVec (cfg.params s).m (blendVec cfg (mulVec a (rgbVec l)) (mulVec a (rgbVec m)) (mulVec a (rgbVec r)))
  ⟨clamp8 (rnd v.x), clamp8 (rnd v.y), clamp8 (rnd v.z)⟩

/-- Step 2, horizontal blending, with replicated edges: `xl = max(x-1, 0)`, `xr = min(x+1, W-1)` (42_render.md R204, R205). -/
def blendFrame (cfg : Config) (s : Std) (base : Frame) (w h : Nat) : Frame :=
  ((List.range (w * h)).map fun k =>
    blendPixel cfg s (pxAt base w (k % w - 1) (k / w)) (pxAt base w (k % w) (k / w))
      (pxAt base w (min (k % w + 1) (w - 1)) (k / w))).toArray

/-- Scanline attenuation of one channel: `floor(c · SCAN_ATTEN / 256)` (42_render.md R206). -/
def attenuate (cfg : Config) (c : Byte) : Byte := BitVec.ofNat 8 (c.toNat * cfg.scanAtten / 256)

/-- Scanline attenuation of a triple: each channel, in proportion (42_render.md R206, 90_conflicts.md C2). -/
def attenuateRgb (cfg : Config) (p : Rgb) : Rgb := ⟨attenuate cfg p.r, attenuate cfg p.g, attenuate cfg p.b⟩

/-- The native frame after step 1 and, when the blend flag is 1, step 2 (42_render.md R200). -/
def nativeFrame (cfg : Config) (inp : Nat → Byte) (w h : Nat) (blend : Bool) (s : Std) (pal : Palette) : Frame :=
  if blend then blendFrame cfg s (baseFrame inp w h pal) w h else baseFrame inp w h pal

/-- Output pixel (xo, yo): native pixel (xo div S, yo div S), attenuated in the odd output rows when the scan flag is 1
(42_render.md R200, R206, R207; 90_conflicts.md C1). -/
def outputPixel (cfg : Config) (px : Frame) (w scale : Nat) (scan : Bool) (xo yo : Nat) : Rgb :=
  let p := pxAt px w (xo / scale) (yo / scale)
  if scan && decide (yo % 2 = 1) then attenuateRgb cfg p else p

/-- The bytes of a triple in output order R, G, B (42_render.md R207). -/
def rgbBytes (p : Rgb) : List Byte := [p.r, p.g, p.b]

/-- `render(IN, W, H, S, scan, blend, s, pal)`: `3·(W·S)·(H·S)` bytes, rows top to bottom, pixels left to right
(42_render.md R200, R207). -/
def renderBytes (cfg : Config) (inp : Nat → Byte) (w h scale : Nat) (scan blend : Bool) (s : Std) (pal : Palette) :
    List Byte :=
  let px := nativeFrame cfg inp w h blend s pal
  (List.range ((w * scale) * (h * scale))).flatMap fun k =>
    rgbBytes (outputPixel cfg px w scale scan (k % (w * scale)) (k / (w * scale)))

/-- The bytes the accepted render computes from IN_MEM, its snapshot and the active bank (42_render.md R201, R202). -/
def State.renderOutput (s : State) : List Byte :=
  renderBytes s.cfg (s.readByte .inMem) s.snap.w.toNat s.snap.h.toNat s.snap.scale.toNat s.snap.scan s.snap.blend s.snap.std
    (s.bank s.status.activeBank)

/-- `n` bytes drawn under no law, from the counter on (42_render.md R201, 93_implementation_defined.md U5; log 8). -/
def drawnBytes (from_ n : Nat) : List Byte := (List.range n).map fun k => Config.drawnByte (from_ + k)

/-- Render perform (42_render.md R201): the render region takes the render's bytes, or any values when R_TAINT = 1;
`RENDER_BUSY <- 0; RENDER_DONE <- 1`. -/
def State.performRender (s : State) : State :=
  let done := { s.status with renderBusy := false, renderDone := true }
  if s.snap.taint then
    ((s.setMem .outMem (Memory.setPrefix s.outMem (drawnBytes s.draws s.regionLen))).setDraws
      (s.draws + s.regionLen)).setStatus done
  else (s.setMem .outMem (Memory.setPrefix s.outMem s.renderOutput)).setStatus done

/-- One step of the render engine: perform when enabled, nothing otherwise (42_render.md R201; log 13). -/
def State.renderStep (s : State) : State := if s.status.renderEnabled then s.performRender else s

end Sys2Proof.Machine
end

