-- ==== Sys2Proof/Machine/Registers.lean ====
section
/-! DEFINITION. The register window (10_state.md section 2): the word each register reads as, and what a write does to every
register but CMD. -/

namespace Sys2Proof.Machine

/-- CTRL's word (10_state.md R26). -/
def Ctrl.word (c : Ctrl) : Word :=
  bitAt c.scanEn 0 ||| bitAt c.blendEn 1 ||| bitAt c.loopEn 2 ||| bitAt c.std.bit 3 ||| (c.scale.setWidth 32 <<< 4)

/-- GEOM's word: W in bits 23:12, H in bits 11:0 (10_state.md R30). -/
def State.geomWord (s : State) : Word := (s.geomW.setWidth 32 <<< 12) ||| s.geomH.setWidth 32

/-- `{8'h00, r, g, b}` (10_state.md R33). -/
def rgbWord (p : Rgb) : Word := (p.r.setWidth 32 <<< 16) ||| (p.g.setWidth 32 <<< 8) ||| p.b.setWidth 32

/-- PAL_DATA's word: the entry PAL_INDEX of the active bank, or 0 while PAL_VALID = 0 (10_state.md R33). -/
def State.palData (s : State) : Word :=
  if s.status.palValid then rgbWord (paletteEntry (s.bank s.status.activeBank) s.palIndex) else 0

/-- What a read of the register at an offset of the window returns (10_state.md R22 to R34). -/
def State.readReg (s : State) (off : Nat) : Word :=
  match off with
  | 0x04 => s.status.word
  | 0x08 => s.ctrl.word
  | 0x0C => s.phase.setWidth 32
  | 0x10 => s.sat.setWidth 32
  | 0x14 => s.geomWord
  | 0x18 => s.frameLen.setWidth 32
  | 0x1C => s.palIndex.setWidth 32
  | 0x20 => s.palData
  | _ => 0

/-- A write of `v` to a register other than CMD: STATUS by R25, PAL_INDEX by R32; every other register is read-only or reserved
and the write is ignored (10_state.md R34, R35). -/
def State.writeReg (s : State) (off : Nat) (v : Word) : State :=
  match off with
  | 0x04 => s.setStatus (s.status.write v)
  | 0x1C => s.setPalIndex (v.extractLsb' 0 8)
  | _ => s

/-- The level output `std_out = CTRL.STD` (10_state.md R27; log 20). -/
def State.stdOut (s : State) : Bool := s.ctrl.std.bit

/-- The level output `loop_out = CTRL.LOOP_EN` (10_state.md R27; log 20). -/
def State.loopOut (s : State) : Bool := s.ctrl.loopEn

end Sys2Proof.Machine
end

