-- ==== Sys2Proof/Machine/Bus.lean ====
section
/-! DEFINITION. The host bus (20_memory.md): the address map, reads, writes, render hazards, and the host's step. -/

namespace Sys2Proof.Machine

/-- What an access reaches: a register of the window, or bytes of a memory from an offset on (20_memory.md R61). -/
inductive Target where
  | reg (off : Nat)
  | mem (sp : Space) (off : Nat)
deriving DecidableEq, Repr

/-- The size of a memory (00_scope.md R9). -/
def memBytes (cfg : Config) : Space → Nat
  | .inMem => cfg.inMemBytes
  | .outMem => cfg.outMemBytes

/-- The bytes of an access to a memory window: natural alignment (20_memory.md R66), every byte below the memory's size
(R61, R63). -/
def windowTarget (cfg : Config) (sp : Space) (a off n : Nat) : Option Target :=
  if a % n = 0 ∧ off + n ≤ memBytes cfg sp then some (.mem sp off) else none

/-- The address map (20_memory.md R61) with the rules of R64 and R66; none is a BUS_ERROR (R63). -/
def busTarget (cfg : Config) (addr : Addr) (n : Width) : Option Target :=
  let a := addr.toNat
  if a < 0x100 then (if n = .word ∧ a % 4 = 0 then some (.reg a) else none)
  else if 0x100000 ≤ a ∧ a < 0x200000 then windowTarget cfg .inMem a (a - 0x100000) n.bytes
  else if 0x400000 ≤ a ∧ a < 0x800000 then windowTarget cfg .outMem a (a - 0x400000) n.bytes
  else none

/-- Reads that are any value: OUT_MEM bytes of the render region while RENDER_BUSY = 1 (20_memory.md R69). -/
def State.unsettled (s : State) (sp : Space) (a : Nat) : Bool :=
  s.status.renderBusy && decide (sp = .outMem) && decide (a < s.regionLen)

/-- Byte `k` of a host read at `off`: drawn when it is unsettled (20_memory.md R69), else the memory's (R65). -/
def State.hostByte (s : State) (sp : Space) (off k : Nat) : Byte :=
  if s.unsettled sp (off + k) then Config.drawnByte (s.draws + k) else s.readByte sp (off + k)

/-- The data of a host read (20_memory.md R65, R69; registers 10_state.md R22). -/
def State.busData (s : State) : Target → Nat → Word
  | .reg off, _ => s.readReg off
  | .mem sp off, n => BitVec.ofNat 32 (littleEndian ((List.range n).map (s.hostByte sp off)))

/-- How many free values a host read uses up: as many as its bytes when its first byte is unsettled, so that the next read
draws afresh (93_implementation_defined.md U4; log 8). -/
def State.drawsAfter (s : State) : Target → Nat → Nat
  | .reg _, _ => s.draws
  | .mem sp off, n => if s.unsettled sp off then s.draws + n else s.draws

/-- The write is a render hazard: RENDER_BUSY = 1 and its bytes meet the IN_MEM range the render reads or the render region
(20_memory.md R70). Both ranges begin at offset 0, so the first byte decides (log 19). -/
def State.isHazard (s : State) (sp : Space) (off : Nat) : Bool :=
  s.status.renderBusy &&
    match sp with
    | .inMem => decide (off < s.inputLen)
    | .outMem => decide (off < s.regionLen)

/-- `R_TAINT <- 1` (20_memory.md R70). -/
def State.taintRender (s : State) : State := s.setSnap { s.snap with taint := true }

/-- A host write to a memory: it takes effect; a render hazard also sets R_TAINT and records RENDER_HAZARD (20_memory.md R70). -/
def State.hostWrite (s : State) (sp : Space) (off : Nat) (n : Nat) (v : Word) : State :=
  if s.isHazard sp off then ((s.memWrite sp off v n).taintRender).recordError .renderHazard
  else s.memWrite sp off v n

/-- A word written to CMD (10_state.md R23): the command unit executes it in this step; an illegal word only records
ILLEGAL_OPCODE (30_encoding.md R102). -/
def State.command (s : State) (w : Word) : Host.Outcome State Fault Refusal :=
  match decode w with
  | .ok i => exec i s
  | .error _ => .next (s.recordError .illegalOpcode)

/-- A host read (20_memory.md R60, R63, R67): the response carries the data; a BUS_ERROR is a fault of the host's program. -/
def State.hostRead (s : State) (addr : Addr) (n : Width) : Option State :=
  (busTarget s.cfg addr n).map fun t => (s.setDraws (s.drawsAfter t n.bytes)).setResp (.data n (s.busData t n.bytes))

/-- A host access (20_memory.md R60): reads, memory writes, register writes, commands. -/
def State.access (s : State) : Access → Host.Outcome State Fault Refusal
  | .read addr n =>
    match s.hostRead addr n with
    | some t => .next t
    | none => .fault .busError
  | .write addr n v =>
    match busTarget s.cfg addr n with
    | some (.reg 0) => (s.setResp .ok).command v
    | some (.reg off) => .next ((s.setResp .ok).writeReg off v)
    | some (.mem sp off) => .next ((s.setResp .ok).hostWrite sp off n.bytes v)
    | none => .fault .busError

/-- One repetition of POLL: a 4-byte read; the poll stays the host's next line unless `(value AND m) = e`
(30_encoding.md R106; log 12). -/
def State.pollOnce (s : State) (addr : Addr) (mask expect : Word) (rest : List HostOp) :
    Host.Outcome State Fault Refusal :=
  match busTarget s.cfg addr .word, s.hostRead addr .word with
  | some t, some s' => .next (if s.busData t 4 &&& mask = expect then s'.setProg rest else s')
  | _, _ => .fault .busError

/-- The host's step: its next line, in program order (20_memory.md R71); a host with nothing left to do makes no access
(log 13). -/
def State.hostStep (s : State) : Host.Outcome State Fault Refusal :=
  match s.prog with
  | [] => .next s
  | .access a :: rest => (s.setProg rest).access a
  | .poll addr mask expect :: rest => s.pollOnce addr mask expect rest

end Sys2Proof.Machine
end

