-- ==== Sys2Proof/Machine/Schedule.lean ====
section
/-! DEFINITION. Whose step comes next: the interleaving of 00_scope.md R16 and 20_memory.md R71 as data (log 1), weakly fair to the
engines (41_palette.md R163, 70_reset_and_hazards.md R266; log 14). -/

namespace Sys2Proof.Machine

/-- The agents that have a step to take: the host while it has a program line left, an engine while its condition holds. -/
def State.enabledAgents (s : State) : List Agent :=
  (if s.prog.isEmpty then [] else [.host]) ++
  (if s.status.buildEnabled then [.buildEngine] else []) ++
  (if s.status.renderEnabled then [.renderEngine] else [])

/-- The build engine has a step enabled and has been passed over as often as this wait allows (41_palette.md R163; log 14). -/
def State.buildOverdue (s : State) : Bool :=
  s.status.buildEnabled && decide (Config.buildPatience s.waits.build.round ≤ s.waits.build.passed)

/-- The same for the render engine (70_reset_and_hazards.md R266; log 14). -/
def State.renderOverdue (s : State) : Bool :=
  s.status.renderEnabled && decide (Config.renderPatience s.waits.render.round ≤ s.waits.render.passed)

/-- An engine's wait after a turn: over if the turn was its own, longer by one if it had a step enabled, else unchanged. -/
def Wait.afterTurn (w : Wait) (enabled moved : Bool) : Wait :=
  if moved then { passed := 0, round := w.round + 1 }
  else if enabled then { passed := w.passed + 1, round := w.round }
  else w

/-- Both waits after a turn of agent `a`. -/
def State.waitsAfter (s : State) (a : Agent) : Waits where
  build := s.waits.build.afterTurn s.status.buildEnabled (decide (a = .buildEngine))
  render := s.waits.render.afterTurn s.status.renderEnabled (decide (a = .renderEngine))

/-- Who moves of several enabled agents: an engine that is overdue, else any of them (41_palette.md R163; logs 1, 14). -/
def State.choose (s : State) (a : Agent) (as : List Agent) : Agent :=
  if s.buildOverdue then .buildEngine
  else if s.renderOverdue then .renderEngine
  else (a :: as).getD (Config.chosenAgent s.draws % (a :: as).length) a

/-- The agent that moves and the state it moves from. The schedule `turns` decides while it lasts; then one of the enabled
agents moves, chosen among several; with none enabled the block is idle (60_exceptions.md R234; logs 1, 13, 14). -/
def State.pick (s : State) : Option Agent × State :=
  match s.turns with
  | t :: ts => (some t, s.setTurns ts)
  | [] =>
    match s.enabledAgents with
    | [] => (none, s)
    | [a] => (some a, s.setWaits (s.waitsAfter a))
    | a :: as => (some (s.choose a as), (s.setWaits (s.waitsAfter (s.choose a as))).setDraws (s.draws + 1))

/-- One step of one agent. -/
def State.agentStep (s : State) : Agent → Host.Outcome State Fault Refusal
  | .host => s.hostStep
  | .buildEngine => .next s.buildStep
  | .renderEngine => .next s.renderStep
  | .rst => .next s.applyReset

/-- One step of the machine (00_scope.md R16). -/
def State.stepOnce (s : State) : Host.Outcome State Fault Refusal :=
  match s.pick with
  | (some a, s') => s'.agentStep a
  | (none, s') => .next s'

/-- The host's next access becomes a write of `w` to CMD, and the host moves next (log 1). -/
def State.withCommandWord (s : State) (w : Word) : State :=
  (s.setProg (.access (.write 0 .word w) :: s.prog)).setTurns (.host :: s.turns)

end Sys2Proof.Machine
end

