-- ==== Sys2Proof/Machine/Step.lean ====
section
/-! DEFINITION. The machine's step, and the placing of one command where the next step takes it. -/

namespace Sys2Proof.Machine

/-- One step: one atomic step of one agent (00_scope.md R16, 20_memory.md R71). -/
def step (s : State) : Host.Outcome State Fault Refusal := s.stepOnce

/-- `s` with the command word `w` (`nbits` of it) as the host's next access, a write to CMD, and the host's step next: the
block fetches no instruction (10_state.md R21), so this stands for the host writing that word (log 1). -/
def State.withFetchWord (s : State) (nbits w : Nat) : State := s.withCommandWord (BitVec.ofNat 32 (w % 2 ^ nbits))

end Sys2Proof.Machine
end

