-- ==== Sys2Proof/Safety.lean ====
section
/-! DEFINITION. What the claims speak of: legal configurations, the invariants of the machine, states that read alike, mapped
accesses, infinite runs. -/

namespace Sys2Proof.Machine

/-- The first column of a matrix is (1, 1, 1) (00_scope.md R10). -/
def firstColumnOnes (m : Mat3) : Prop := m.row0.x = 1 ∧ m.row1.x = 1 ∧ m.row2.x = 1

/-- The constraints a configuration meets whatever its values (00_scope.md R9, R10, R11). -/
structure ConfigLegal (c : Config) : Prop where
  inSize : 1 ≤ c.inMemBytes ∧ c.inMemBytes ≤ 0x100000
  outSize : 1 ≤ c.outMemBytes ∧ c.outMemBytes ≤ 0x400000
  dirOpposite : c.paramsA.dir = c.paramsB.dir.opposite
  refDistinct : c.paramsA.ref ≠ c.paramsB.ref
  stepDistinct : c.paramsA.step ≠ c.paramsB.step
  matrixDistinct : c.paramsA.m ≠ c.paramsB.m
  chromaZero : chromaLevel c 0 = 0
  chromaNonneg : ∀ l < 16, 0 ≤ chromaLevel c l
  columnA : firstColumnOnes c.paramsA.m
  columnB : firstColumnOnes c.paramsB.m
  invertibleA : det c.paramsA.m ≠ 0
  invertibleB : det c.paramsB.m ≠ 0
  lumaWeight : 0 < 2 * c.ySide + c.yCenter
  chromaWeight : 0 < 2 * c.cSide + c.cCenter
  attenuation : c.scanAtten ≤ 255

/-- No error is recorded: the postcondition of a host program that should provoke none (60_exceptions.md R235). -/
def State.errorFree (s : State) : Prop := s.status.errBits = 0

/-- The registers hold values in the ranges 10_state.md gives them: PHASE (R28), SAT (R29), SCALE (R26), GEOM (R30), and the
snapshot of a build in progress with them (R38). -/
structure RegistersInRange (s : State) : Prop where
  phase : s.phase.toNat < 36000
  sat : s.sat.toNat ≤ 0x7FFF
  scale : s.ctrl.scale ≠ 0
  geom : s.geomW = 0 ↔ s.geomH = 0
  buildPhase : s.status.buildBusy = true → s.build.phase.toNat < 36000
  buildSat : s.status.buildBusy = true → s.build.sat.toNat ≤ 0x7FFF

/-- The error state agrees with itself (10_state.md R24, R25, 60_exceptions.md R222, R225): ERR_FIRST is 0 exactly when no bit is
set, it is one of the eight codes, and a recorded GEOMETRY_MISMATCH means FATAL. -/
structure ErrorsConsistent (s : State) : Prop where
  first : s.status.errBits = 0 ↔ s.status.errFirst = 0
  code : s.status.errFirst.toNat ≤ 8
  fatal : s.status.errBits.getLsbD 5 = true → s.status.fatal = true

/-- A render that is accepted and not performed fits the memories, and its completion is not announced (42_render.md R190,
20_memory.md R68). -/
structure RenderFits (s : State) : Prop where
  width : s.status.renderBusy = true → s.snap.w ≠ 0
  height : s.status.renderBusy = true → s.snap.h ≠ 0
  scale : s.status.renderBusy = true → s.snap.scale ≠ 0
  input : s.status.renderBusy = true → s.inputLen ≤ s.cfg.inMemBytes
  output : s.status.renderBusy = true → s.regionLen ≤ s.cfg.outMemBytes
  notDone : s.status.renderBusy = true → s.status.renderDone = false

/-- Every offset a memory lists exists (20_memory.md R61, R62). -/
def listedBelow (m : Memory) (n : Nat) : Prop := ∀ c ∈ m, c.1 < n

/-- Both memories are in canonical form and list only bytes that exist. -/
structure MemoriesCanonical (s : State) : Prop where
  inWf : Memory.wf s.inMem = true
  outWf : Memory.wf s.outMem = true
  inBound : listedBelow s.inMem s.cfg.inMemBytes
  outBound : listedBelow s.outMem s.cfg.outMemBytes

/-- A palette the build function gives for inputs in range (41_palette.md R152). -/
def IsBuilt (cfg : Config) (p : Palette) : Prop :=
  ∃ (std : Std) (phase sat : BitVec 16), phase.toNat < 36000 ∧ sat.toNat ≤ 0x7FFF ∧ p = buildTable cfg std phase sat

/-- What the active bank holds (10_state.md R37, 20_memory.md R72, R74): before the first build a build is requested or running;
after it the active bank is a whole table; and once no build is requested or running it is the table of the current inputs. -/
structure PaletteCurrent (s : State) : Prop where
  requested : s.status.palValid = false → s.status.buildPending = true ∨ s.status.buildBusy = true
  snapshot : s.status.buildBusy = true → s.status.buildPending = false →
    s.build = { std := s.ctrl.std, phase := s.phase, sat := s.sat }
  whole : s.status.palValid = true → IsBuilt s.cfg (s.bank s.status.activeBank)
  current : s.status.palValid = true → s.status.buildPending = false → s.status.buildBusy = false →
    s.bank s.status.activeBank = buildTable s.cfg s.ctrl.std s.phase s.sat

/-- The invariant of the machine: every part of it. -/
structure StateInv (s : State) : Prop where
  legal : ConfigLegal s.cfg
  registers : RegistersInRange s
  errors : ErrorsConsistent s
  render : RenderFits s
  memories : MemoriesCanonical s
  palette : PaletteCurrent s

/-- Every byte of both memories reads the same in `t` as in `s`. -/
def SameMemory (s t : State) : Prop := ∀ (sp : Space) (a : Nat), t.readByte sp a = s.readByte sp a

/-- `t` reads as `s` at every byte of both memories but the `n` bytes from `off` on of `sp`. -/
def SameMemoryOutside (s t : State) (sp : Space) (off n : Nat) : Prop :=
  ∀ (sp' : Space) (a : Nat), ¬(sp' = sp ∧ off ≤ a ∧ a < off + n) → t.readByte sp' a = s.readByte sp' a

/-- An aligned access of width `n` at `addr` whose bytes are those of a memory from offset `off` on: the windows of the address map
and their bases (20_memory.md R61, R66), every byte inside the window and below the memory's size (R63). -/
def Mapped (cfg : Config) (addr : Addr) (n : Width) (sp : Space) (off : Nat) : Prop :=
  addr.toNat % n.bytes = 0 ∧
    match sp with
    | .inMem => addr.toNat = 0x100000 + off ∧ off < 0x100000 ∧ off + n.bytes ≤ cfg.inMemBytes
    | .outMem => addr.toNat = 0x400000 + off ∧ off < 0x400000 ∧ off + n.bytes ≤ cfg.outMemBytes

/-- The commands that set BUILD_PENDING (41_palette.md R162). -/
def isPaletteInput : Instr → Bool
  | .setStd _ | .setPhase _ | .adjPhase _ | .setSat _ | .adjSat _ | .rebuild => true
  | .nop | .setGeom _ _ | .setFrameLen _ | .toggleScan | .toggleBlend | .toggleLoop | .setFilters _ _ _ | .setScale _
  | .render => false

/-- An infinite run: every step answers a next state. -/
def IsRun (r : Nat → State) : Prop := ∀ n, step (r n) = .next (r (n + 1))

/-- The step from `s` requests a build: it is reset's, or the host's write of a palette-input command (41_palette.md R162). -/
def RequestsBuild (s : State) : Prop :=
  s.pick.1 = some .rst ∨
    (s.pick.1 = some .host ∧ ∃ (w : Word) (ps : List HostOp) (i : Instr),
      s.prog = .access (.write 0 .word w) :: ps ∧ decode w = .ok i ∧ isPaletteInput i = true)

end Sys2Proof.Machine
end

