-- ==== Sys2Proof/Certificates/Slice0/Obligations.lean ====
section
/-! DEFINITION. The statements for the provers. -/

open Sys2Proof Sys2Proof.Machine

/-! ### Encoding (30_encoding.md) -/

/-- Decoding an assembled command gives it back, for every command and every operand R105 admits. -/
def Obligations.DecodeEncodeRoundTrip : Prop :=
  ∀ i : Instr, i.wellFormed = true → decode (encode i) = .ok i

/-- Encoding what a word decodes to gives the word with its ignored bits zeroed: no used bit is dropped or invented. -/
def Obligations.EncodeOfDecodeKeepsUsedBits : Prop :=
  ∀ (w : Word) (i : Instr), decode w = .ok i → encode i = w &&& i.usedMask

/-- R103: ignored bits do not change the command; an assembler writes zero in them; every word is one of the commands of R99 or
illegal, so there are no hint encodings and no custom opcode space. -/
def Obligations.ReservedBitsAreIgnored : Prop :=
  (∀ (w w' : Word) (i : Instr), decode w = .ok i → w' &&& i.usedMask = w &&& i.usedMask → decode w' = .ok i) ∧
  (∀ i : Instr, i.wellFormed = true → encode i &&& ~~~i.usedMask = 0) ∧
  (∀ w : Word, (∃ i : Instr, decode w = .ok i ∧ i.opcode = bitField w 31 24) ∨
    decode w = .error (.illegalOpcode (bitField w 31 24)))

/-- R100 with the map of R99: the command of each OPCODE, its operands extracted by its format; every other word is illegal. -/
def Obligations.DecodingFollowsTheOpcodeMap : Prop :=
  ∀ w : Word,
    (bitField w 31 24 = 0x00 → decode w = .ok .nop) ∧
    (bitField w 31 24 = 0x01 → decode w = .ok (.setStd (if bitField w 0 0 = 1 then .stdB else .stdA))) ∧
    (bitField w 31 24 = 0x02 → decode w = .ok (.setGeom (bitField w 23 12) (bitField w 11 0))) ∧
    (bitField w 31 24 = 0x03 → decode w = .ok (.setFrameLen (bitField w 23 0))) ∧
    (bitField w 31 24 = 0x10 → decode w = .ok (.setPhase (bitField w 15 0))) ∧
    (bitField w 31 24 = 0x11 → decode w = .ok (.adjPhase (w.setWidth 16).toInt)) ∧
    (bitField w 31 24 = 0x12 → decode w = .ok (.setSat (w.setWidth 16).toInt)) ∧
    (bitField w 31 24 = 0x13 → decode w = .ok (.adjSat (w.setWidth 16).toInt)) ∧
    (bitField w 31 24 = 0x14 → decode w = .ok .rebuild) ∧
    (bitField w 31 24 = 0x20 → decode w = .ok .toggleScan) ∧
    (bitField w 31 24 = 0x21 → decode w = .ok .toggleBlend) ∧
    (bitField w 31 24 = 0x22 → decode w = .ok .toggleLoop) ∧
    (bitField w 31 24 = 0x23 → decode w = .ok (.setFilters (w.getLsbD 0) (w.getLsbD 1) (w.getLsbD 2))) ∧
    (bitField w 31 24 = 0x24 → decode w = .ok (.setScale (bitField w 3 0))) ∧
    (bitField w 31 24 = 0x30 → decode w = .ok .render) ∧
    (bitField w 31 24 ∉ [0x00, 0x01, 0x02, 0x03, 0x10, 0x11, 0x12, 0x13, 0x14, 0x20, 0x21, 0x22, 0x23, 0x24, 0x30] →
      decode w = .error (.illegalOpcode (bitField w 31 24)))

/-- Words written out from the encodings of 30_encoding.md R105 and 95_test_vectors.md section 2. -/
def Obligations.WordsDecodeAsWrittenOut : Prop :=
  decodeTableWord 32 0x00ABCDEF = some .nop ∧
  decodeTableWord 32 0x01000001 = some (.setStd .stdB) ∧
  decodeTableWord 32 0x020A0060 = some (.setGeom 160 96) ∧
  decodeTableWord 32 0x03003C00 = some (.setFrameLen 15360) ∧
  decodeTableWord 32 0x10FF2328 = some (.setPhase 9000) ∧
  decodeTableWord 32 0x1100FE0C = some (.adjPhase (-500)) ∧
  decodeTableWord 32 0x1300FFC0 = some (.adjSat (-64)) ∧
  decodeTableWord 32 0x23000006 = some (.setFilters false true true) ∧
  decodeTableWord 32 0x24000011 = some (.setScale 1) ∧
  decodeTableWord 32 0x04000000 = none

/-- R102: an illegal word written to CMD changes nothing but the error state, by the recording action for code 1. -/
def Obligations.IllegalWordOnlyRecordsCodeOne : Prop :=
  ∀ (s : State) (w : Word) (ps : List HostOp) (ts : List Agent),
    s.turns = .host :: ts → s.prog = .access (.write 0 .word w) :: ps →
    bitField w 31 24 ∉ [0x00, 0x01, 0x02, 0x03, 0x10, 0x11, 0x12, 0x13, 0x14, 0x20, 0x21, 0x22, 0x23, 0x24, 0x30] →
    step s = .next { s with
      turns := ts, prog := ps, resp := .ok,
      status := { s.status with
        errFirst := if s.status.errBits = 0 then 1 else s.status.errFirst
        errBits := s.status.errBits ||| 0x01 } }

/-! ### The step -/

/-- A step of the host that writes a word to CMD runs the decoded command, on the state without that turn and that access, with
the access answered OK; so does the step from withFetchWord, whatever the state. -/
def Obligations.StepRunsDecodedCommand : Prop :=
  (∀ (s : State) (w : Word) (i : Instr) (ps : List HostOp) (ts : List Agent),
    s.turns = .host :: ts → s.prog = .access (.write 0 .word w) :: ps → decode w = .ok i →
    step s = exec i { s with turns := ts, prog := ps, resp := .ok }) ∧
  (∀ (s : State) (w : Nat) (i : Instr), w < 2 ^ 32 → decodeTableWord 32 w = some i →
    step (s.withFetchWord 32 w) = exec i { s with resp := .ok })

/-! ### The commands -/

/-- R120. -/
def Obligations.NopChangesNothing : Prop :=
  (∀ w : Word, bitField w 31 24 = 0x00 → decode w = .ok .nop) ∧ ∀ s : State, exec .nop s = .next s

/-- R122: CTRL.STD takes the bit, BUILD_PENDING is set whatever it was, nothing else changes. -/
def Obligations.SetStdResult : Prop :=
  (∀ w : Word, bitField w 31 24 = 0x01 → decode w = .ok (.setStd (if bitField w 0 0 = 1 then .stdB else .stdA))) ∧
  ∀ (s : State) (std : Std), ∃ t, exec (.setStd std) s = .next t ∧ SameMemory s t ∧
    t = { s with ctrl := { s.ctrl with std := std }, status := { s.status with buildPending := true } }

/-- R124: both fields of GEOM, or BAD_OPERAND with GEOM unchanged. -/
def Obligations.SetGeomResult : Prop :=
  (∀ w : Word, bitField w 31 24 = 0x02 → decode w = .ok (.setGeom (bitField w 23 12) (bitField w 11 0))) ∧
  (∀ (s : State) (w h : Nat), (Instr.setGeom w h).wellFormed = true → w ≠ 0 → h ≠ 0 →
    ∃ t, exec (.setGeom w h) s = .next t ∧ t.geomW.toNat = w ∧ t.geomH.toNat = h ∧ SameMemory s t ∧
      t = { s with geomW := t.geomW, geomH := t.geomH }) ∧
  (∀ (s : State) (w h : Nat), (Instr.setGeom w h).wellFormed = true → (w = 0 ∨ h = 0) →
    exec (.setGeom w h) s = .next (s.recordError .badOperand))

/-- R126. -/
def Obligations.SetFrameLenResult : Prop :=
  (∀ w : Word, bitField w 31 24 = 0x03 → decode w = .ok (.setFrameLen (bitField w 23 0))) ∧
  ∀ (s : State) (len : Nat), (Instr.setFrameLen len).wellFormed = true →
    ∃ t, exec (.setFrameLen len) s = .next t ∧ t.frameLen.toNat = len ∧ SameMemory s t ∧ t = { s with frameLen := t.frameLen }

/-- R140: PHASE is the operand modulo 36000; BUILD_PENDING is set; nothing else changes. -/
def Obligations.SetPhaseResult : Prop :=
  (∀ w : Word, bitField w 31 24 = 0x10 → decode w = .ok (.setPhase (bitField w 15 0))) ∧
  ∀ (s : State) (imm : Nat), (Instr.setPhase imm).wellFormed = true →
    ∃ t, exec (.setPhase imm) s = .next t ∧ t.phase.toNat = imm % 36000 ∧ SameMemory s t ∧
      t = { s with phase := t.phase, status := { s.status with buildPending := true } }

/-- R142: PHASE moves by the signed operand, modulo 36000 with a result in 0..35999. -/
def Obligations.AdjPhaseResult : Prop :=
  (∀ w : Word, bitField w 31 24 = 0x11 → decode w = .ok (.adjPhase (w.setWidth 16).toInt)) ∧
  ∀ (s : State) (d : Int), (Instr.adjPhase d).wellFormed = true →
    ∃ t, exec (.adjPhase d) s = .next t ∧ (t.phase.toNat : Int) = (s.phase.toNat + d) % 36000 ∧ SameMemory s t ∧
      t = { s with phase := t.phase, status := { s.status with buildPending := true } }

/-- R143: a sequence of ADJ_PHASE commands adds up modulo 36000, from a PHASE in its range (10_state.md R28). -/
def Obligations.AdjPhaseSequenceAddsUp : Prop :=
  ∀ (ds : List Int) (s : State), s.phase.toNat < 36000 → (∀ d ∈ ds, (Instr.adjPhase d).wellFormed = true) →
    ∃ t, ds.foldl (fun o d => match o with
        | .next u => exec (.adjPhase d) u
        | .fault r => .fault r
        | .refused r => .refused r) (.next s) = Host.Outcome.next t ∧
      (t.phase.toNat : Int) = (s.phase.toNat + ds.sum) % 36000

/-- R144: a negative operand is clamped to 0. -/
def Obligations.SetSatResult : Prop :=
  (∀ w : Word, bitField w 31 24 = 0x12 → decode w = .ok (.setSat (w.setWidth 16).toInt)) ∧
  ∀ (s : State) (q : Int), (Instr.setSat q).wellFormed = true →
    ∃ t, exec (.setSat q) s = .next t ∧ (t.sat.toNat : Int) = max q 0 ∧ SameMemory s t ∧
      t = { s with sat := t.sat, status := { s.status with buildPending := true } }

/-- R146: SAT moves by the signed operand, clamped to 0..0x7FFF. -/
def Obligations.AdjSatResult : Prop :=
  (∀ w : Word, bitField w 31 24 = 0x13 → decode w = .ok (.adjSat (w.setWidth 16).toInt)) ∧
  ∀ (s : State) (d : Int), (Instr.adjSat d).wellFormed = true →
    ∃ t, exec (.adjSat d) s = .next t ∧ (t.sat.toNat : Int) = min 0x7FFF (max 0 (s.sat.toNat + d)) ∧ SameMemory s t ∧
      t = { s with sat := t.sat, status := { s.status with buildPending := true } }

/-- R148: a build is requested; several requests before a build starts are one request; a build in progress goes on and, when it
completes, a build is still requested. -/
def Obligations.RebuildResult : Prop :=
  (∀ w : Word, bitField w 31 24 = 0x14 → decode w = .ok .rebuild) ∧
  ∀ s : State, ∃ t, exec .rebuild s = .next t ∧ SameMemory s t ∧
    t = { s with status := { s.status with buildPending := true } } ∧ exec .rebuild t = .next t ∧
    (s.status.buildBusy = true →
      t.status.buildBusy = true ∧ t.buildStep.status.buildPending = true ∧ t.buildStep.status.buildBusy = false)

/-- R180, R182, R184: each toggle inverts its one bit of CTRL, and twice leaves it as it was. -/
def Obligations.TogglesInvertTheirBit : Prop :=
  (∀ w : Word, (bitField w 31 24 = 0x20 → decode w = .ok .toggleScan) ∧
    (bitField w 31 24 = 0x21 → decode w = .ok .toggleBlend) ∧ (bitField w 31 24 = 0x22 → decode w = .ok .toggleLoop)) ∧
  ∀ s : State,
    (∃ t, exec .toggleScan s = .next t ∧ SameMemory s t ∧
      t = { s with ctrl := { s.ctrl with scanEn := !s.ctrl.scanEn } } ∧ exec .toggleScan t = .next s) ∧
    (∃ t, exec .toggleBlend s = .next t ∧ SameMemory s t ∧
      t = { s with ctrl := { s.ctrl with blendEn := !s.ctrl.blendEn } } ∧ exec .toggleBlend t = .next s) ∧
    (∃ t, exec .toggleLoop s = .next t ∧ SameMemory s t ∧
      t = { s with ctrl := { s.ctrl with loopEn := !s.ctrl.loopEn } } ∧ exec .toggleLoop t = .next s)

/-- R186. -/
def Obligations.SetFiltersResult : Prop :=
  (∀ w : Word, bitField w 31 24 = 0x23 → decode w = .ok (.setFilters (w.getLsbD 0) (w.getLsbD 1) (w.getLsbD 2))) ∧
  ∀ (s : State) (scan blend loop : Bool), ∃ t, exec (.setFilters scan blend loop) s = .next t ∧ SameMemory s t ∧
    t = { s with ctrl := { s.ctrl with scanEn := scan, blendEn := blend, loopEn := loop } }

/-- R188: SCALE, or BAD_OPERAND with SCALE unchanged. -/
def Obligations.SetScaleResult : Prop :=
  (∀ w : Word, bitField w 31 24 = 0x24 → decode w = .ok (.setScale (bitField w 3 0))) ∧
  (∀ (s : State) (n : Nat), (Instr.setScale n).wellFormed = true → n ≠ 0 →
    ∃ t, exec (.setScale n) s = .next t ∧ t.ctrl.scale.toNat = n ∧ SameMemory s t ∧
      t = { s with ctrl := { s.ctrl with scale := t.ctrl.scale } }) ∧
  (∀ s : State, exec (.setScale 0) s = .next (s.recordError .badOperand))

/-- R190: the accept, under exactly the conditions of the checks, and the error of the first check that fails, in their order. -/
def Obligations.RenderAcceptsOrRaises : Prop :=
  (∀ w : Word, bitField w 31 24 = 0x30 → decode w = .ok .render) ∧
  (∀ s : State, s.status.fatal = false → s.status.renderBusy = false → s.geomW ≠ 0 → s.geomH ≠ 0 →
    s.frameLen.toNat = s.geomW.toNat * s.geomH.toNat → s.geomW.toNat * s.geomH.toNat ≤ s.cfg.inMemBytes →
    3 * (s.geomW.toNat * s.ctrl.scale.toNat) * (s.geomH.toNat * s.ctrl.scale.toNat) ≤ s.cfg.outMemBytes →
    ∃ t, exec .render s = .next t ∧ SameMemory s t ∧ t = { s with
      snap := { w := s.geomW, h := s.geomH, scale := s.ctrl.scale, scan := s.ctrl.scanEn, blend := s.ctrl.blendEn,
                std := s.ctrl.std, taint := false }
      status := { s.status with renderDone := false, renderBusy := true } } ∧
      (s.status.palValid = false → t.status.renderEnabled = false)) ∧
  (∀ s : State, s.status.fatal = true → exec .render s = .next (s.recordError .renderRefused)) ∧
  (∀ s : State, s.status.fatal = false → s.status.renderBusy = true → exec .render s = .next (s.recordError .busy)) ∧
  (∀ s : State, s.status.fatal = false → s.status.renderBusy = false → (s.geomW = 0 ∨ s.geomH = 0) →
    exec .render s = .next (s.recordError .notConfigured)) ∧
  (∀ s : State, s.status.fatal = false → s.status.renderBusy = false → s.geomW ≠ 0 → s.geomH ≠ 0 →
    s.frameLen.toNat ≠ s.geomW.toNat * s.geomH.toNat → exec .render s = .next (s.recordError .geometryMismatch)) ∧
  (∀ s : State, s.status.fatal = false → s.status.renderBusy = false → s.geomW ≠ 0 → s.geomH ≠ 0 →
    s.frameLen.toNat = s.geomW.toNat * s.geomH.toNat →
    (s.cfg.inMemBytes < s.geomW.toNat * s.geomH.toNat ∨
      s.cfg.outMemBytes < 3 * (s.geomW.toNat * s.ctrl.scale.toNat) * (s.geomH.toNat * s.ctrl.scale.toNat)) →
    exec .render s = .next (s.recordError .capacity))

/-! ### Errors and STATUS -/

/-- R222: what recording an error writes, and that it writes nothing else; the code's number is that of R220. -/
def Obligations.ErrorRecordingWritesStatusOnly : Prop :=
  (∀ (s : State) (c : ErrorCode),
    (s.status.errBits = 0 → (s.recordError c).status.errFirst.toNat = c.num) ∧
    (s.status.errBits ≠ 0 → (s.recordError c).status.errFirst = s.status.errFirst) ∧
    (∀ k, (s.recordError c).status.errBits.getLsbD k = (s.status.errBits.getLsbD k || decide (k = c.num - 1))) ∧
    (s.recordError c).status.fatal = (s.status.fatal || decide (c.num = 6)) ∧
    ((s.recordError c).readReg 4).getLsbD 7 = true ∧
    s.recordError c = { s with status := { s.status with
      errFirst := (s.recordError c).status.errFirst, errBits := (s.recordError c).status.errBits,
      fatal := (s.recordError c).status.fatal } }) ∧
  ([ErrorCode.illegalOpcode, .badOperand, .busy, .notConfigured, .capacity, .geometryMismatch, .renderHazard,
    .renderRefused].map ErrorCode.num = [1, 2, 3, 4, 5, 6, 7, 8])

/-- R121, R223: every command completes at once, whatever the engines do; either it records one error and changes nothing else,
or it leaves the error state as it was; it touches no palette bank, no memory, not the snapshot of a build, nor that of an
accepted render, nor the configuration, nor the host's side. -/
def Obligations.CommandsCompletePreciselyAndKeepSnapshots : Prop :=
  ∀ (i : Instr) (s : State), ∃ t, exec i s = .next t ∧
    ((∃ c : ErrorCode, t = s.recordError c) ∨
      (t.status.errBits = s.status.errBits ∧ t.status.errFirst = s.status.errFirst ∧ t.status.fatal = s.status.fatal)) ∧
    t.cfg = s.cfg ∧ t.pal0 = s.pal0 ∧ t.pal1 = s.pal1 ∧ t.build = s.build ∧
    (s.status.renderBusy = true → t.snap = s.snap) ∧ t.inMem = s.inMem ∧ t.outMem = s.outMem ∧ t.palIndex = s.palIndex ∧
    t.resp = s.resp ∧ t.prog = s.prog ∧ t.turns = s.turns ∧ t.waits = s.waits ∧ t.draws = s.draws ∧
    t.resets = s.resets ∧ SameMemory s t

/-- R162: BUILD_PENDING is set by exactly the six palette-input commands and by reset; no other command and no other host
access sets it. -/
def Obligations.OnlyPaletteInputsRequestABuild : Prop :=
  (∀ (i : Instr) (s t : State), exec i s = .next t →
    t.status.buildPending = (s.status.buildPending || isPaletteInput i)) ∧
  (∀ s : State, s.applyReset.status.buildPending = true) ∧
  (∀ (s t : State) (a : Access), (∀ v, a ≠ .write 0 .word v) → s.access a = .next t →
    t.status.buildPending = s.status.buildPending)

/-- R25: a host write of v to STATUS clears RENDER_DONE by bit 5 and ERR_BITS by bits 23:16, ERR_FIRST when no bit is left, and
nothing else; ERR reads as the OR of what is left. -/
def Obligations.StatusWriteOneToClear : Prop :=
  ∀ (s : State) (v : Word) (ps : List HostOp) (ts : List Agent),
    s.turns = .host :: ts → s.prog = .access (.write 4 .word v) :: ps →
    ∃ t, step s = .next t ∧
      t.status.renderDone = (s.status.renderDone && !v.getLsbD 5) ∧
      (∀ k < 8, t.status.errBits.getLsbD k = (s.status.errBits.getLsbD k && !v.getLsbD (16 + k))) ∧
      (t.status.errBits = 0 → t.status.errFirst = 0) ∧
      (t.status.errBits ≠ 0 → t.status.errFirst = s.status.errFirst) ∧
      ((t.readReg 4).getLsbD 7 = decide (t.status.errBits ≠ 0)) ∧
      t = { s with turns := ts, prog := ps, resp := .ok, status := { s.status with
        renderDone := t.status.renderDone, errBits := t.status.errBits, errFirst := t.status.errFirst } }

/-- R24: where each field of STATUS stands in the word the host reads, and that reserved bits read 0. -/
def Obligations.StatusWordLayout : Prop :=
  ∀ s : State,
    (s.readReg 4).getLsbD 0 = s.status.buildBusy ∧ (s.readReg 4).getLsbD 1 = s.status.buildPending ∧
    (s.readReg 4).getLsbD 2 = s.status.palValid ∧ (s.readReg 4).getLsbD 3 = decide (s.status.activeBank = .bank1) ∧
    (s.readReg 4).getLsbD 4 = s.status.renderBusy ∧ (s.readReg 4).getLsbD 5 = s.status.renderDone ∧
    (s.readReg 4).getLsbD 6 = s.status.fatal ∧ (s.readReg 4).getLsbD 7 = decide (s.status.errBits ≠ 0) ∧
    (s.readReg 4).extractLsb' 8 4 = s.status.errFirst ∧ (s.readReg 4).extractLsb' 12 4 = 0 ∧
    (s.readReg 4).extractLsb' 16 8 = s.status.errBits ∧ (s.readReg 4).extractLsb' 24 8 = 0

/-- R26, R28 to R31: the words of the read-only registers; R27: the two level outputs follow CTRL. -/
def Obligations.ReadOnlyRegisterWords : Prop :=
  ∀ s : State,
    ((s.readReg 0x08).getLsbD 0 = s.ctrl.scanEn ∧ (s.readReg 0x08).getLsbD 1 = s.ctrl.blendEn ∧
      (s.readReg 0x08).getLsbD 2 = s.ctrl.loopEn ∧ (s.readReg 0x08).getLsbD 3 = decide (s.ctrl.std = .stdB) ∧
      (s.readReg 0x08).extractLsb' 4 4 = s.ctrl.scale ∧ (s.readReg 0x08).extractLsb' 8 24 = 0) ∧
    (s.readReg 0x0C).toNat = s.phase.toNat ∧ (s.readReg 0x10).toNat = s.sat.toNat ∧
    (s.readReg 0x14).toNat = s.geomW.toNat * 4096 + s.geomH.toNat ∧ (s.readReg 0x18).toNat = s.frameLen.toNat ∧
    s.stdOut = (s.readReg 0x08).getLsbD 3 ∧ s.loopOut = (s.readReg 0x08).getLsbD 2

/-- R42, R250: the reset event, at any time, leaves every register at its reset value, whatever the block was doing. -/
def Obligations.ResetSetsEveryRegister : Prop :=
  ∀ (s : State) (ts : List Agent), s.turns = .rst :: ts → ∃ t, step s = .next t ∧
    t.readReg 0x04 = 0x00000002 ∧ t.readReg 0x08 = 0x00000013 ∧ t.readReg 0x0C = 0 ∧ t.readReg 0x10 = 0x00000100 ∧
    t.readReg 0x14 = 0 ∧ t.readReg 0x18 = 0 ∧ t.readReg 0x1C = 0 ∧ t.readReg 0x20 = 0 ∧ t.snap.taint = false ∧
    t.cfg = s.cfg

/-! ### The register window and the host bus -/

/-- R32, R33: a write to PAL_INDEX stores v[7:0] and nothing else, a read returns it zero-extended, it is 0 after reset; PAL_DATA
reads the entry PAL_INDEX of the active bank, and 0 while PAL_VALID = 0. -/
def Obligations.PaletteReadBack : Prop :=
  (∀ (s : State) (v : Word) (ps : List HostOp) (ts : List Agent),
    s.turns = .host :: ts → s.prog = .access (.write 0x1C .word v) :: ps →
    ∃ t, step s = .next t ∧ (t.readReg 0x1C).toNat = v.toNat % 256 ∧
      t = { s with turns := ts, prog := ps, resp := .ok, palIndex := t.palIndex }) ∧
  (∀ s : State, (s.readReg 0x1C).toNat = s.palIndex.toNat) ∧
  (∀ cfg : Config, (State.resetWith cfg).palIndex = 0) ∧
  (∀ s : State, s.status.palValid = false → s.readReg 0x20 = 0) ∧
  (∀ s : State, s.status.palValid = true → ∃ e : Rgb, (s.bank s.status.activeBank)[s.palIndex.toNat]? = some e ∧
    (s.readReg 0x20).toNat = e.r.toNat * 65536 + e.g.toNat * 256 + e.b.toNat)

/-- R34, R35: a read of a register answers with its word and changes nothing of the block; reserved offsets (and CMD) read 0; a
write to a read-only register or a reserved offset changes nothing of the block; a write to STATUS reaches RENDER_DONE, ERR_BITS
and ERR_FIRST only. -/
def Obligations.RegisterReadsAndIgnoredWrites : Prop :=
  (∀ (s : State) (addr : Addr) (ps : List HostOp) (ts : List Agent),
    s.turns = .host :: ts → s.prog = .access (.read addr .word) :: ps → addr.toNat < 0x100 → addr.toNat % 4 = 0 →
    step s = .next { s with turns := ts, prog := ps, resp := .data .word (s.readReg addr.toNat) }) ∧
  (∀ (s : State) (off : Nat), off = 0 ∨ 0x24 ≤ off → s.readReg off = 0) ∧
  (∀ (s : State) (addr : Addr) (v : Word) (ps : List HostOp) (ts : List Agent),
    s.turns = .host :: ts → s.prog = .access (.write addr .word v) :: ps →
    addr.toNat < 0x100 → addr.toNat % 4 = 0 → addr.toNat ≠ 0 → addr.toNat ≠ 4 → addr.toNat ≠ 0x1C →
    step s = .next { s with turns := ts, prog := ps, resp := .ok }) ∧
  (∀ (st : Status) (v : Word), ∃ (d : Bool) (e : BitVec 8) (f : BitVec 4),
    st.write v = { st with renderDone := d, errBits := e, errFirst := f })

/-- R60 to R66: an access is answered with BUS_ERROR exactly when a byte of it is unmapped, it is misaligned, or it reaches REG
other than by an aligned 4-byte access; the model stops the host's program with a fault. -/
def Obligations.BusErrorExactly : Prop :=
  ∀ (s : State) (a : Access) (addr : Addr) (n : Width), (a = .read addr n ∨ ∃ v, a = .write addr n v) →
    (s.access a = .fault .busError ↔
      ¬((addr.toNat < 0x100 ∧ n = .word ∧ addr.toNat % 4 = 0) ∨
        (0x100000 ≤ addr.toNat ∧ addr.toNat < 0x200000 ∧ addr.toNat % n.bytes = 0 ∧
          addr.toNat + n.bytes ≤ 0x100000 + s.cfg.inMemBytes) ∨
        (0x400000 ≤ addr.toNat ∧ addr.toNat < 0x800000 ∧ addr.toNat % n.bytes = 0 ∧
          addr.toNat + n.bytes ≤ 0x400000 + s.cfg.outMemBytes)))

/-- R61, R65 and the second half of R70: the address map reaches a memory exactly at the mapped, aligned accesses, IN from
0x100000 and OUT from 0x400000 on; a write there stores byte v[8k+7:8k] at offset + k and leaves every other byte; a write that is
no render hazard changes nothing else. -/
def Obligations.MemoryWriteStoresLittleEndian : Prop :=
  (∀ (cfg : Config) (addr : Addr) (n : Width) (sp : Space) (off : Nat),
    busTarget cfg addr n = some (.mem sp off) ↔ Mapped cfg addr n sp off) ∧
  ∀ (s : State) (addr : Addr) (n : Width) (v : Word) (sp : Space) (off : Nat), Mapped s.cfg addr n sp off →
    ∃ t, s.access (.write addr n v) = .next t ∧
      (∀ k < n.bytes, (t.readByte sp (off + k)).toNat = v.toNat / 2 ^ (8 * k) % 256) ∧
      SameMemoryOutside s t sp off n.bytes ∧
      (¬(s.status.renderBusy = true ∧
          ((sp = .inMem ∧ off < s.snap.w.toNat * s.snap.h.toNat) ∨ (sp = .outMem ∧ off < s.regionLen))) →
        t = { s with resp := .ok, inMem := t.inMem, outMem := t.outMem })

/-- R70: a render hazard write takes effect, sets R_TAINT and records RENDER_HAZARD (code 7), and changes nothing else. -/
def Obligations.HazardWriteTaintsAndRecords : Prop :=
  ∀ (s : State) (addr : Addr) (n : Width) (v : Word) (sp : Space) (off : Nat),
    Mapped s.cfg addr n sp off → s.status.renderBusy = true →
    ((sp = .inMem ∧ off < s.snap.w.toNat * s.snap.h.toNat) ∨ (sp = .outMem ∧ off < s.regionLen)) →
    ∃ t, s.access (.write addr n v) = .next t ∧
      (∀ k < n.bytes, (t.readByte sp (off + k)).toNat = v.toNat / 2 ^ (8 * k) % 256) ∧
      SameMemoryOutside s t sp off n.bytes ∧
      t = { s with resp := .ok, inMem := t.inMem, outMem := t.outMem, snap := { s.snap with taint := true },
                   status := { s.status with
                     errFirst := if s.status.errBits = 0 then 7 else s.status.errFirst
                     errBits := s.status.errBits ||| 0x40 } }

/-- R65, R67 and the second half of R69: a mapped, aligned read returns, little-endian, every byte it covers that is not in the
render region of a render in progress, and no read changes anything of the block. That the value is 0 above the width, its data
zero-extended to a word, is the model's choice (log 11), and so is the counter of free values (log 8). -/
def Obligations.ReadsReturnBytesAndChangeNothing : Prop :=
  ∀ (s : State) (addr : Addr) (n : Width) (sp : Space) (off : Nat), Mapped s.cfg addr n sp off →
    ∃ v k, s.access (.read addr n) = .next { s with resp := .data n v, draws := k } ∧
      (∀ j < n.bytes, ¬(s.status.renderBusy = true ∧ sp = .outMem ∧ off + j < s.regionLen) →
        v.toNat / 2 ^ (8 * j) % 256 = (s.readByte sp (off + j)).toNat) ∧
      (∀ j < 4, n.bytes ≤ j → v.toNat / 2 ^ (8 * j) % 256 = 0)

/-- R106: one repetition of POLL is a 4-byte read of any address RD32 may have; the poll stays the host's next line unless the
masked value is as expected. A register gives its word, a memory what the read of it gives, and any other address is a BUS_ERROR.
That one repetition is one step is the model's reading (log 12), and that a BUS_ERROR is one fault its choice (log 2). -/
def Obligations.PollRepeatsUntilMatched : Prop :=
  ∀ (s : State) (addr : Addr) (m e : Word) (ps : List HostOp) (ts : List Agent),
    s.turns = .host :: ts → s.prog = .poll addr m e :: ps →
    (addr.toNat < 0x100 → addr.toNat % 4 = 0 →
      step s = .next { s with
        turns := ts, resp := .data .word (s.readReg addr.toNat)
        prog := if s.readReg addr.toNat &&& m = e then ps else s.prog }) ∧
    (∀ (sp : Space) (off : Nat), Mapped s.cfg addr .word sp off →
      ∃ v k, s.access (.read addr .word) = .next { s with resp := .data .word v, draws := k } ∧
        step s = .next { s with
          turns := ts, resp := .data .word v, draws := k, prog := if v &&& m = e then ps else s.prog }) ∧
    (step s = .fault .busError ↔
      ¬((addr.toNat < 0x100 ∧ addr.toNat % 4 = 0) ∨ ∃ (sp : Space) (off : Nat), Mapped s.cfg addr .word sp off))

/-! ### The palette -/

/-- R152: entry i of the table, for every configuration, standard, phase and saturation, is the exact real formula: luma l/15,
chroma in polar form, the matrix of the standard, `clamp8(rnd(255·x))`; the arithmetic is exact until the rounding. The
configurations are rational, as the model takes them (log 10). -/
def Obligations.PaletteIsTheExactRealFormula : Prop :=
  ∀ (cfg : Config) (s : Std) (p q : BitVec 16) (i : Nat) (hi : i < 256),
    let h := i / 16
    let l := i % 16
    let y : ℝ := (l : ℝ) / 15
    let θ : ℝ := ((cfg.params s).ref : ℝ) + ((cfg.params s).dir.sign : ℝ) * ((cfg.params s).step : ℝ) * (h : ℝ) +
      (p.toNat : ℝ) / 100
    let c : ℝ := (q.toNat : ℝ) / 256 * ((chromaLevel cfg l : ℚ) : ℝ)
    let u : ℝ := c * Real.cos (θ * Real.pi / 180)
    let v : ℝ := c * Real.sin (θ * Real.pi / 180)
    let value := fun (row : Vec3) => (row.x : ℝ) * y + (row.y : ℝ) * u + (row.z : ℝ) * v
    let rounded := fun (x : ℝ) => min 255 (max 0 ⌊255 * x + 1 / 2⌋)
    let e := (buildTable cfg s p q)[i]
    (e.r.toNat : Int) = rounded (value (cfg.params s).m.row0) ∧
    (e.g.toNat : Int) = rounded (value (cfg.params s).m.row1) ∧
    (e.b.toNat : Int) = rounded (value (cfg.params s).m.row2)

/-- R153, R159, for a legal configuration: luma level 0 is black at every hue, standard, phase and saturation; saturation 0 gives
the gray 17·l at every index. -/
def Obligations.NeutralGrays : Prop :=
  (∀ (cfg : Config) (s : Std) (p q : BitVec 16) (h : Nat) (hh : h < 16), ConfigLegal cfg →
    (buildTable cfg s p q)[16 * h + 0] = ⟨0, 0, 0⟩) ∧
  (∀ (cfg : Config) (s : Std) (p : BitVec 16) (i : Nat) (hi : i < 256), ConfigLegal cfg →
    (buildTable cfg s p 0)[i] = ⟨BitVec.ofNat 8 (17 * (i % 16)), BitVec.ofNat 8 (17 * (i % 16)), BitVec.ofNat 8 (17 * (i % 16))⟩)

/-- R158: the table depends on the phase only modulo 36000, and the commands keep PHASE in 0..35999. -/
def Obligations.PaletteIsPeriodicInPhase : Prop :=
  (∀ (cfg : Config) (s : Std) (p p' q : BitVec 16), p.toNat % 36000 = p'.toNat % 36000 →
    buildTable cfg s p q = buildTable cfg s p' q) ∧
  (∀ (i : Instr) (s t : State), s.phase.toNat < 36000 → exec i s = .next t → t.phase.toNat < 36000)

/-- 95_test_vectors.md section 5.4: under the reference configuration a phase of 22.5·k degrees rotates the StdA table by k hue
levels. -/
def Obligations.PhaseRotatesTheHues : Prop :=
  ∀ (q : BitVec 16) (k h l : Nat) (hk : k < 16) (hh : h < 16) (hl : l < 16),
    (buildTable Config.reference .stdA (BitVec.ofNat 16 (2250 * k)) q)[16 * h + l] =
      (buildTable Config.reference .stdA 0 q)[16 * ((h + k) % 16) + l]

/-- R160: build start; a palette-input command executed after it sets BUILD_PENDING again and leaves the build as it is. -/
def Obligations.BuildStartTakesTheSnapshot : Prop :=
  ∀ (s : State) (ts : List Agent), s.turns = .buildEngine :: ts → s.status.buildPending = true → s.status.buildBusy = false →
    step s = .next { s with
      turns := ts
      build := { std := s.ctrl.std, phase := s.phase, sat := s.sat }
      status := { s.status with buildPending := false, buildBusy := true } } ∧
    ∀ (i : Instr) (t u : State), step s = .next t → isPaletteInput i = true → exec i t = .next u →
      u.build = t.build ∧ u.status.buildBusy = true ∧ u.status.buildPending = true

/-- R161: build complete, from the snapshot, into the inactive bank, published by the swap; the bank that was active is kept. -/
def Obligations.BuildCompletePublishesBySwap : Prop :=
  ∀ (s : State) (ts : List Agent), s.turns = .buildEngine :: ts → s.status.buildBusy = true →
    ∃ t, step s = .next t ∧ t.status.activeBank ≠ s.status.activeBank ∧
      t.bank t.status.activeBank = buildTable s.cfg s.build.std s.build.phase s.build.sat ∧
      t.bank s.status.activeBank = s.bank s.status.activeBank ∧
      t = { s with turns := ts, pal0 := t.pal0, pal1 := t.pal1, status := { s.status with
        activeBank := t.status.activeBank, palValid := true, buildBusy := false } }

/-- R72, second guarantee: a STATUS read with BUILD_PENDING 0, BUILD_BUSY 0 and PAL_VALID 1 means that the active bank is the table
of the register values at that read. -/
def Obligations.PolledPaletteIsCurrent : Prop :=
  ∀ s : State, PaletteCurrent s → s.readReg 4 &&& 7 = 4 →
    s.bank s.status.activeBank = buildTable s.cfg s.ctrl.std s.phase s.sat

/-- R36, R74: no step but reset changes the contents of the bank that is active; a build writes the other one. -/
def Obligations.ActiveBankIsNeverMutated : Prop :=
  ∀ s t : State, step s = .next t → s.turns.head? ≠ some .rst →
    t.bank s.status.activeBank = s.bank s.status.activeBank

/-- R72, R38, R160, R161: every step keeps that the active bank is a whole table, current once no build is requested or
running. -/
def Obligations.StepKeepsPaletteCurrent : Prop :=
  ∀ s t : State, RegistersInRange s → PaletteCurrent s → step s = .next t → PaletteCurrent t

/-! ### The renderer -/

/-- R201: the perform step. The render region takes the render's bytes or, when R_TAINT = 1, any values, every other byte of memory
stays. That those values are drawn by the counter `draws` is the model's choice (log 8), and so is that a turn of a render engine
not enabled changes nothing (log 13). -/
def Obligations.PerformWritesTheRenderRegion : Prop :=
  ∀ (s : State) (ts : List Agent), s.turns = .renderEngine :: ts →
    (s.status.renderBusy = true → s.status.palValid = true →
      ∃ t, step s = .next t ∧
        (s.snap.taint = false → t.draws = s.draws ∧ ∀ k < s.regionLen,
          (renderBytes s.cfg (s.readByte .inMem) s.snap.w.toNat s.snap.h.toNat s.snap.scale.toNat s.snap.scan
            s.snap.blend s.snap.std (s.bank s.status.activeBank))[k]? = some (t.readByte .outMem k)) ∧
        (s.snap.taint = true → t.draws = s.draws + s.regionLen ∧ ∀ k < s.regionLen,
          t.readByte .outMem k = Config.drawnByte (s.draws + k)) ∧
        SameMemoryOutside s t .outMem 0 s.regionLen ∧
        t = { s with turns := ts, outMem := t.outMem, draws := t.draws,
                     status := { s.status with renderBusy := false, renderDone := true } }) ∧
    (s.status.renderBusy = false ∨ s.status.palValid = false → step s = .next { s with turns := ts })

/-- R200 with R203, R205, R206, R207: how many bytes a render gives and which channel of which pixel each one is. -/
def Obligations.RenderedByteIsThePixelChannel : Prop :=
  ∀ (cfg : Config) (inp : Nat → Byte) (w h sc : Nat) (scan blend : Bool) (s : Std) (pal : Palette), cfg.scanAtten ≤ 255 →
    (renderBytes cfg inp w h sc scan blend s pal).length = 3 * (w * sc) * (h * sc) ∧
    ∀ xo yo, xo < w * sc → yo < h * sc →
      let base := fun x y => pal[(inp (y * w + x)).toNat]'(inp (y * w + x)).isLt
      let px := fun x y => if blend then blendPixel cfg s (base (x - 1) y) (base x y) (base (min (x + 1) (w - 1)) y) else base x y
      let p := px (xo / sc) (yo / sc)
      let dark := fun (c : Byte) => if scan = true ∧ yo % 2 = 1 then c.toNat * cfg.scanAtten / 256 else c.toNat
      let out := fun c => ((renderBytes cfg inp w h sc scan blend s pal)[3 * (yo * (w * sc) + xo) + c]?).map BitVec.toNat
      out 0 = some (dark p.r) ∧ out 1 = some (dark p.g) ∧ out 2 = some (dark p.b)

/-- R204: the blended pixel, for a legal configuration: with (Y, U, V) the luma/chroma coordinates of the three pixels, the
weighted averages go back through the matrix of the standard, rounded and clamped. -/
def Obligations.BlendIsTheWeightedAverageInLumaChroma : Prop :=
  ∀ (cfg : Config) (s : Std) (l m r : Rgb) (a b c : Vec3), ConfigLegal cfg →
    mulVec (cfg.params s).m a = ⟨(l.r.toNat : Rat), (l.g.toNat : Rat), (l.b.toNat : Rat)⟩ →
    mulVec (cfg.params s).m b = ⟨(m.r.toNat : Rat), (m.g.toNat : Rat), (m.b.toNat : Rat)⟩ →
    mulVec (cfg.params s).m c = ⟨(r.r.toNat : Rat), (r.g.toNat : Rat), (r.b.toNat : Rat)⟩ →
    let y' : Rat := (cfg.ySide * a.x + cfg.yCenter * b.x + cfg.ySide * c.x) / (2 * cfg.ySide + cfg.yCenter)
    let u' : Rat := (cfg.cSide * a.y + cfg.cCenter * b.y + cfg.cSide * c.y) / (2 * cfg.cSide + cfg.cCenter)
    let v' : Rat := (cfg.cSide * a.z + cfg.cCenter * b.z + cfg.cSide * c.z) / (2 * cfg.cSide + cfg.cCenter)
    let rounded := fun (row : Vec3) => min 255 (max 0 ⌊row.x * y' + row.y * u' + row.z * v' + 1 / 2⌋)
    ((blendPixel cfg s l m r).r.toNat : Int) = rounded (cfg.params s).m.row0 ∧
    ((blendPixel cfg s l m r).g.toNat : Int) = rounded (cfg.params s).m.row1 ∧
    ((blendPixel cfg s l m r).b.toNat : Int) = rounded (cfg.params s).m.row2

/-- R210: a pixel whose neighbours have its colour keeps it, for a legal configuration; in particular every pixel of a frame one
pixel wide. -/
def Obligations.BlendPreservesFlatRegions : Prop :=
  (∀ (cfg : Config) (s : Std) (p : Rgb), ConfigLegal cfg → blendPixel cfg s p p p = p) ∧
  (∀ (cfg : Config) (inp : Nat → Byte) (h : Nat) (s : Std) (pal : Palette), ConfigLegal cfg →
    nativeFrame cfg inp 1 h true s pal = nativeFrame cfg inp 1 h false s pal)

/-- R211: without filters and at scale 1 a render is a palette lookup. -/
def Obligations.PlainRenderIsPaletteLookup : Prop :=
  ∀ (cfg : Config) (inp : Nat → Byte) (w h : Nat) (s : Std) (pal : Palette) (x y : Nat), x < w → y < h →
    ∃ e : Rgb, pal[(inp (y * w + x)).toNat]? = some e ∧
      (renderBytes cfg inp w h 1 false false s pal)[3 * (y * w + x) + 0]? = some e.r ∧
      (renderBytes cfg inp w h 1 false false s pal)[3 * (y * w + x) + 1]? = some e.g ∧
      (renderBytes cfg inp w h 1 false false s pal)[3 * (y * w + x) + 2]? = some e.b

/-- R209, for a legal configuration: an odd output row is the row without the scan flag, attenuated; an even row is unchanged; a
channel never gets brighter, loses less than one unit beyond the factor, and stays only when it is 0; so any positive-weight luma
sum of a row gets strictly smaller exactly when the row has a non-zero channel. -/
def Obligations.ScanlinesDarkenOddRowsStrictly : Prop :=
  ∀ cfg : Config, ConfigLegal cfg →
    (∀ (f : Frame) (w sc xo yo : Nat),
      outputPixel cfg f w sc true xo yo =
        if yo % 2 = 1 then attenuateRgb cfg (outputPixel cfg f w sc false xo yo) else outputPixel cfg f w sc false xo yo) ∧
    (∀ c : Byte, (attenuate cfg c).toNat ≤ c.toNat ∧ ((attenuate cfg c).toNat = c.toNat ↔ c = 0) ∧
      (attenuate cfg c).toNat * 256 ≤ c.toNat * cfg.scanAtten ∧
      c.toNat * cfg.scanAtten < ((attenuate cfg c).toNat + 1) * 256) ∧
    (∀ (wr wg wb : Rat) (row : List Rgb), 0 < wr → 0 < wg → 0 < wb →
      let luma := fun (p : Rgb) => wr * (p.r.toNat : Rat) + wg * (p.g.toNat : Rat) + wb * (p.b.toNat : Rat)
      ((row.map fun p => luma (attenuateRgb cfg p)).sum ≤ (row.map luma).sum) ∧
      ((row.map fun p => luma (attenuateRgb cfg p)).sum < (row.map luma).sum ↔ ∃ p ∈ row, p ≠ ⟨0, 0, 0⟩))

/-- R208: two renders that agree on the configuration, on the IN_MEM bytes a render reads, on the snapshot and on the active
bank's contents, neither tainted, write the same bytes, whatever else the two states hold. -/
def Obligations.RenderIsDeterministic : Prop :=
  ∀ s s' : State, s.cfg = s'.cfg → s.snap = s'.snap → s.snap.taint = false →
    s.bank s.status.activeBank = s'.bank s'.status.activeBank →
    (∀ a < s.snap.w.toNat * s.snap.h.toNat, s.readByte .inMem a = s'.readByte .inMem a) →
    ∀ k < s.regionLen, s.performRender.readByte .outMem k = s'.performRender.readByte .outMem k

/-- R72, first guarantee, and 20_memory.md section 1: while no render is in progress, no step but a host write or reset changes
a byte of memory. -/
def Obligations.FinishedFrameStaysPut : Prop :=
  ∀ s t : State, step s = .next t → s.status.renderBusy = false → s.turns.head? ≠ some .rst →
    (∀ (addr : Addr) (n : Width) (v : Word) (ps : List HostOp), s.prog ≠ .access (.write addr n v) :: ps) →
    SameMemory s t

/-- R231: what each engine's step may write. The build engine: the inactive bank, the build state, ACTIVE_BANK and PAL_VALID. The
render engine: OUT_MEM, RENDER_BUSY and RENDER_DONE (and the model's counter of free values). -/
def Obligations.EnginesWriteOnlyTheirOwnState : Prop :=
  (∀ s : State, ∃ (b : BuildSnap) (p : Palette) (busy pending valid : Bool) (k : Bank),
    s.buildStep = { s.setBank s.status.activeBank.other p with
      build := b
      status := { s.status with buildBusy := busy, buildPending := pending, palValid := valid, activeBank := k } }) ∧
  (∀ s : State, ∃ (m : Memory) (busy done : Bool) (n : Nat),
    s.renderStep = { s with
      outMem := m, draws := n, status := { s.status with renderBusy := busy, renderDone := done } })

/-! ### Whole-machine rules -/

/-- Every step keeps the invariant: registers in range, error state consistent, accepted render fits, memories canonical and
inside their sizes, palette current, configuration legal; and no step changes the configuration. -/
def Obligations.StepKeepsInvariant : Prop :=
  (∀ s t : State, StateInv s → step s = .next t → StateInv t) ∧ ∀ s t : State, step s = .next t → t.cfg = s.cfg

/-- The invariant holds after reset. It covers values the model chose for what the spec leaves unspecified (logs 5, 6, 7, 9),
none of which the invariant constrains but through the reference configuration. -/
def Obligations.ResetHasInvariant : Prop := StateInv State.reset

/-- R226, R235, R251: FATAL, once set, stays set at every step but reset, and while it is set a RENDER records RENDER_REFUSED and
changes nothing else. -/
def Obligations.FatalIsLeftOnlyByReset : Prop :=
  (∀ s t : State, step s = .next t → s.status.fatal = true → s.turns.head? ≠ some .rst → t.status.fatal = true) ∧
  (∀ s : State, s.status.fatal = true → exec .render s = .next { s with status := { s.status with
    errFirst := if s.status.errBits = 0 then 8 else s.status.errFirst
    errBits := s.status.errBits ||| 0x80 } })

/-- R163, R234, in the model's own scheduling (log 1, log 14): when the host has nothing left to do and the schedule is used up,
four steps bring both engines to rest, whatever order the free choice takes. -/
def Obligations.EnginesComeToRestInFourSteps : Prop :=
  ∀ s : State, s.prog = [] → s.turns = [] →
    ∃ t, Host.Core.run Sys2Proof.core 4 s = .next t ∧
      t.status.buildPending = false ∧ t.status.buildBusy = false ∧ t.status.renderEnabled = false

/-- R163, R266: weak fairness. In every infinite run, from every point on, an engine comes to a state where it has no step enabled or
to its own step; so a step that stays enabled is eventually taken. How the model keeps this, a schedule held as data and then a
free but finite patience, is its choice (logs 1, 14). -/
def Obligations.EnabledEnginesEventuallyMove : Prop :=
  ∀ r : Nat → State, IsRun r → ∀ n,
    (∃ m ≥ n, (r m).status.buildEnabled = false ∨ (r m).pick.1 = some .buildEngine) ∧
    (∃ m ≥ n, (r m).status.renderEnabled = false ∨ (r m).pick.1 = some .renderEngine)

/-- R163: after the last palette-input command (and the last reset) of an infinite run, BUILD_PENDING and BUILD_BUSY eventually both
read 0, and stay so, whatever else the host does; rests on the model's scheduling (logs 1, 14). -/
def Obligations.BuildSettlesAfterLastRequest : Prop :=
  ∀ (r : Nat → State) (n : Nat), IsRun r → (∀ k ≥ n, ¬RequestsBuild (r k)) →
    ∃ m ≥ n, ∀ k ≥ m, ((r k).readReg 4).getLsbD 1 = false ∧ ((r k).readReg 4).getLsbD 0 = false
end

