-- ==== Sys2Proof/Laws/Operands.lean ====
section
/-! SUPPORT. The values operands store, as numbers. -/

namespace Sys2Proof.Machine

theorem clamp_bounds (x lo hi : Int) (h : lo ≤ hi) : lo ≤ clamp x lo hi ∧ clamp x lo hi ≤ hi := by
  unfold clamp; omega

theorem toNat_ofNat_toNat (w : Nat) (x : Int) (h0 : 0 ≤ x) (h : x < 2 ^ w) : ((BitVec.ofNat w x.toNat).toNat : Int) = x := by
  have h1 : x.toNat < 2 ^ w := by
    have : ((x.toNat : Nat) : Int) < ((2 ^ w : Nat) : Int) := by rw [Int.toNat_of_nonneg h0]; exact_mod_cast h
    exact_mod_cast this
  rw [BitVec.toNat_ofNat, Nat.mod_eq_of_lt h1, Int.toNat_of_nonneg h0]

/-- PHASE is normalized by the mathematical remainder (41_palette.md R140, R142). -/
theorem phaseMod_toNat (x : Int) : ((phaseMod x).toNat : Int) = x % 36000 :=
  toNat_ofNat_toNat 16 _ (by omega) (by norm_num; omega)

theorem phaseMod_lt (x : Int) : (phaseMod x).toNat < 36000 := by
  have := phaseMod_toNat x; omega

/-- SET_SAT clamps negative values to 0 (41_palette.md R144). -/
theorem satSet_toNat (q : Int) (h : q ≤ 32767) : ((satSet q).toNat : Int) = max q 0 :=
  toNat_ofNat_toNat 16 _ (by omega) (by norm_num; omega)

/-- ADJ_SAT clamps to 0..0x7FFF (41_palette.md R146). -/
theorem satAdjust_toNat (sat : BitVec 16) (d : Int) : ((satAdjust sat d).toNat : Int) = clamp (sat.toNat + d) 0 0x7FFF := by
  have := clamp_bounds (sat.toNat + d) 0 0x7FFF (by norm_num)
  exact toNat_ofNat_toNat 16 _ this.1 (by norm_num; omega)

theorem satAdjust_le (sat : BitVec 16) (d : Int) : (satAdjust sat d).toNat ≤ 0x7FFF := by
  have h := satAdjust_toNat sat d
  have := clamp_bounds (sat.toNat + d) 0 0x7FFF (by norm_num)
  omega

theorem geomField_toNat (n : Nat) (h : n ≤ 4095) : (geomField n).toNat = n := by
  rw [geomField, BitVec.toNat_ofNat, Nat.mod_eq_of_lt (by omega)]

theorem lengthField_toNat (n : Nat) (h : n ≤ 16777215) : (lengthField n).toNat = n := by
  rw [lengthField, BitVec.toNat_ofNat, Nat.mod_eq_of_lt (by omega)]

theorem scaleField_toNat (n : Nat) (h : n ≤ 15) : (scaleField n).toNat = n := by
  rw [scaleField, BitVec.toNat_ofNat, Nat.mod_eq_of_lt (by omega)]

theorem geomField_eq_zero (n : Nat) (h : n ≤ 4095) : geomField n = 0 ↔ n = 0 := by
  rw [← BitVec.toNat_inj, geomField_toNat n h]; rfl

theorem scaleField_eq_zero (n : Nat) (h : n ≤ 15) : scaleField n = 0 ↔ n = 0 := by
  rw [← BitVec.toNat_inj, scaleField_toNat n h]; rfl

/-- A channel is the clamped integer (00_scope.md R14). -/
theorem clamp8_toNat (x : Int) : ((clamp8 x).toNat : Int) = clamp x 0 255 := by
  have := clamp_bounds x 0 255 (by norm_num)
  exact toNat_ofNat_toNat 8 _ this.1 (by norm_num; omega)

/-- An integer already in range is its own channel. -/
theorem clamp8_natCast (b : Byte) : clamp8 (b.toNat : Int) = b := by
  have hb := b.isLt
  rw [← BitVec.toNat_inj]
  have := clamp8_toNat (b.toNat : Int)
  unfold clamp at this
  omega

end Sys2Proof.Machine
end

