-- ==== Sys2Proof/Laws/State.lean ====
section
/-! SUPPORT. One lemma per field per update of State, each true by rfl. -/

namespace Sys2Proof.Machine

variable (s : State)

/-! ### setStatus -/
@[simp] theorem State.setStatus_cfg (v : Status) : (s.setStatus v).cfg = s.cfg := rfl
@[simp] theorem State.setStatus_status (v : Status) : (s.setStatus v).status = v := rfl
@[simp] theorem State.setStatus_ctrl (v : Status) : (s.setStatus v).ctrl = s.ctrl := rfl
@[simp] theorem State.setStatus_phase (v : Status) : (s.setStatus v).phase = s.phase := rfl
@[simp] theorem State.setStatus_sat (v : Status) : (s.setStatus v).sat = s.sat := rfl
@[simp] theorem State.setStatus_geomW (v : Status) : (s.setStatus v).geomW = s.geomW := rfl
@[simp] theorem State.setStatus_geomH (v : Status) : (s.setStatus v).geomH = s.geomH := rfl
@[simp] theorem State.setStatus_frameLen (v : Status) : (s.setStatus v).frameLen = s.frameLen := rfl
@[simp] theorem State.setStatus_palIndex (v : Status) : (s.setStatus v).palIndex = s.palIndex := rfl
@[simp] theorem State.setStatus_pal0 (v : Status) : (s.setStatus v).pal0 = s.pal0 := rfl
@[simp] theorem State.setStatus_pal1 (v : Status) : (s.setStatus v).pal1 = s.pal1 := rfl
@[simp] theorem State.setStatus_build (v : Status) : (s.setStatus v).build = s.build := rfl
@[simp] theorem State.setStatus_snap (v : Status) : (s.setStatus v).snap = s.snap := rfl
@[simp] theorem State.setStatus_inMem (v : Status) : (s.setStatus v).inMem = s.inMem := rfl
@[simp] theorem State.setStatus_outMem (v : Status) : (s.setStatus v).outMem = s.outMem := rfl
@[simp] theorem State.setStatus_resp (v : Status) : (s.setStatus v).resp = s.resp := rfl
@[simp] theorem State.setStatus_prog (v : Status) : (s.setStatus v).prog = s.prog := rfl
@[simp] theorem State.setStatus_turns (v : Status) : (s.setStatus v).turns = s.turns := rfl
@[simp] theorem State.setStatus_waits (v : Status) : (s.setStatus v).waits = s.waits := rfl
@[simp] theorem State.setStatus_draws (v : Status) : (s.setStatus v).draws = s.draws := rfl
@[simp] theorem State.setStatus_resets (v : Status) : (s.setStatus v).resets = s.resets := rfl
@[simp] theorem State.setStatus_bank (v : Status) (k : Bank) : (s.setStatus v).bank k = s.bank k := rfl
@[simp] theorem State.setStatus_mem (v : Status) (sp : Space) : (s.setStatus v).mem sp = s.mem sp := rfl
@[simp] theorem State.setStatus_readByte (v : Status) (sp : Space) (x : Nat) : (s.setStatus v).readByte sp x = s.readByte sp x := rfl

/-! ### setCtrl -/
@[simp] theorem State.setCtrl_cfg (v : Ctrl) : (s.setCtrl v).cfg = s.cfg := rfl
@[simp] theorem State.setCtrl_status (v : Ctrl) : (s.setCtrl v).status = s.status := rfl
@[simp] theorem State.setCtrl_ctrl (v : Ctrl) : (s.setCtrl v).ctrl = v := rfl
@[simp] theorem State.setCtrl_phase (v : Ctrl) : (s.setCtrl v).phase = s.phase := rfl
@[simp] theorem State.setCtrl_sat (v : Ctrl) : (s.setCtrl v).sat = s.sat := rfl
@[simp] theorem State.setCtrl_geomW (v : Ctrl) : (s.setCtrl v).geomW = s.geomW := rfl
@[simp] theorem State.setCtrl_geomH (v : Ctrl) : (s.setCtrl v).geomH = s.geomH := rfl
@[simp] theorem State.setCtrl_frameLen (v : Ctrl) : (s.setCtrl v).frameLen = s.frameLen := rfl
@[simp] theorem State.setCtrl_palIndex (v : Ctrl) : (s.setCtrl v).palIndex = s.palIndex := rfl
@[simp] theorem State.setCtrl_pal0 (v : Ctrl) : (s.setCtrl v).pal0 = s.pal0 := rfl
@[simp] theorem State.setCtrl_pal1 (v : Ctrl) : (s.setCtrl v).pal1 = s.pal1 := rfl
@[simp] theorem State.setCtrl_build (v : Ctrl) : (s.setCtrl v).build = s.build := rfl
@[simp] theorem State.setCtrl_snap (v : Ctrl) : (s.setCtrl v).snap = s.snap := rfl
@[simp] theorem State.setCtrl_inMem (v : Ctrl) : (s.setCtrl v).inMem = s.inMem := rfl
@[simp] theorem State.setCtrl_outMem (v : Ctrl) : (s.setCtrl v).outMem = s.outMem := rfl
@[simp] theorem State.setCtrl_resp (v : Ctrl) : (s.setCtrl v).resp = s.resp := rfl
@[simp] theorem State.setCtrl_prog (v : Ctrl) : (s.setCtrl v).prog = s.prog := rfl
@[simp] theorem State.setCtrl_turns (v : Ctrl) : (s.setCtrl v).turns = s.turns := rfl
@[simp] theorem State.setCtrl_waits (v : Ctrl) : (s.setCtrl v).waits = s.waits := rfl
@[simp] theorem State.setCtrl_draws (v : Ctrl) : (s.setCtrl v).draws = s.draws := rfl
@[simp] theorem State.setCtrl_resets (v : Ctrl) : (s.setCtrl v).resets = s.resets := rfl
@[simp] theorem State.setCtrl_bank (v : Ctrl) (k : Bank) : (s.setCtrl v).bank k = s.bank k := rfl
@[simp] theorem State.setCtrl_mem (v : Ctrl) (sp : Space) : (s.setCtrl v).mem sp = s.mem sp := rfl
@[simp] theorem State.setCtrl_readByte (v : Ctrl) (sp : Space) (x : Nat) : (s.setCtrl v).readByte sp x = s.readByte sp x := rfl

/-! ### setPhase -/
@[simp] theorem State.setPhase_cfg (v : BitVec 16) : (s.setPhase v).cfg = s.cfg := rfl
@[simp] theorem State.setPhase_status (v : BitVec 16) : (s.setPhase v).status = s.status := rfl
@[simp] theorem State.setPhase_ctrl (v : BitVec 16) : (s.setPhase v).ctrl = s.ctrl := rfl
@[simp] theorem State.setPhase_phase (v : BitVec 16) : (s.setPhase v).phase = v := rfl
@[simp] theorem State.setPhase_sat (v : BitVec 16) : (s.setPhase v).sat = s.sat := rfl
@[simp] theorem State.setPhase_geomW (v : BitVec 16) : (s.setPhase v).geomW = s.geomW := rfl
@[simp] theorem State.setPhase_geomH (v : BitVec 16) : (s.setPhase v).geomH = s.geomH := rfl
@[simp] theorem State.setPhase_frameLen (v : BitVec 16) : (s.setPhase v).frameLen = s.frameLen := rfl
@[simp] theorem State.setPhase_palIndex (v : BitVec 16) : (s.setPhase v).palIndex = s.palIndex := rfl
@[simp] theorem State.setPhase_pal0 (v : BitVec 16) : (s.setPhase v).pal0 = s.pal0 := rfl
@[simp] theorem State.setPhase_pal1 (v : BitVec 16) : (s.setPhase v).pal1 = s.pal1 := rfl
@[simp] theorem State.setPhase_build (v : BitVec 16) : (s.setPhase v).build = s.build := rfl
@[simp] theorem State.setPhase_snap (v : BitVec 16) : (s.setPhase v).snap = s.snap := rfl
@[simp] theorem State.setPhase_inMem (v : BitVec 16) : (s.setPhase v).inMem = s.inMem := rfl
@[simp] theorem State.setPhase_outMem (v : BitVec 16) : (s.setPhase v).outMem = s.outMem := rfl
@[simp] theorem State.setPhase_resp (v : BitVec 16) : (s.setPhase v).resp = s.resp := rfl
@[simp] theorem State.setPhase_prog (v : BitVec 16) : (s.setPhase v).prog = s.prog := rfl
@[simp] theorem State.setPhase_turns (v : BitVec 16) : (s.setPhase v).turns = s.turns := rfl
@[simp] theorem State.setPhase_waits (v : BitVec 16) : (s.setPhase v).waits = s.waits := rfl
@[simp] theorem State.setPhase_draws (v : BitVec 16) : (s.setPhase v).draws = s.draws := rfl
@[simp] theorem State.setPhase_resets (v : BitVec 16) : (s.setPhase v).resets = s.resets := rfl
@[simp] theorem State.setPhase_bank (v : BitVec 16) (k : Bank) : (s.setPhase v).bank k = s.bank k := rfl
@[simp] theorem State.setPhase_mem (v : BitVec 16) (sp : Space) : (s.setPhase v).mem sp = s.mem sp := rfl
@[simp] theorem State.setPhase_readByte (v : BitVec 16) (sp : Space) (x : Nat) : (s.setPhase v).readByte sp x = s.readByte sp x := rfl

/-! ### setSat -/
@[simp] theorem State.setSat_cfg (v : BitVec 16) : (s.setSat v).cfg = s.cfg := rfl
@[simp] theorem State.setSat_status (v : BitVec 16) : (s.setSat v).status = s.status := rfl
@[simp] theorem State.setSat_ctrl (v : BitVec 16) : (s.setSat v).ctrl = s.ctrl := rfl
@[simp] theorem State.setSat_phase (v : BitVec 16) : (s.setSat v).phase = s.phase := rfl
@[simp] theorem State.setSat_sat (v : BitVec 16) : (s.setSat v).sat = v := rfl
@[simp] theorem State.setSat_geomW (v : BitVec 16) : (s.setSat v).geomW = s.geomW := rfl
@[simp] theorem State.setSat_geomH (v : BitVec 16) : (s.setSat v).geomH = s.geomH := rfl
@[simp] theorem State.setSat_frameLen (v : BitVec 16) : (s.setSat v).frameLen = s.frameLen := rfl
@[simp] theorem State.setSat_palIndex (v : BitVec 16) : (s.setSat v).palIndex = s.palIndex := rfl
@[simp] theorem State.setSat_pal0 (v : BitVec 16) : (s.setSat v).pal0 = s.pal0 := rfl
@[simp] theorem State.setSat_pal1 (v : BitVec 16) : (s.setSat v).pal1 = s.pal1 := rfl
@[simp] theorem State.setSat_build (v : BitVec 16) : (s.setSat v).build = s.build := rfl
@[simp] theorem State.setSat_snap (v : BitVec 16) : (s.setSat v).snap = s.snap := rfl
@[simp] theorem State.setSat_inMem (v : BitVec 16) : (s.setSat v).inMem = s.inMem := rfl
@[simp] theorem State.setSat_outMem (v : BitVec 16) : (s.setSat v).outMem = s.outMem := rfl
@[simp] theorem State.setSat_resp (v : BitVec 16) : (s.setSat v).resp = s.resp := rfl
@[simp] theorem State.setSat_prog (v : BitVec 16) : (s.setSat v).prog = s.prog := rfl
@[simp] theorem State.setSat_turns (v : BitVec 16) : (s.setSat v).turns = s.turns := rfl
@[simp] theorem State.setSat_waits (v : BitVec 16) : (s.setSat v).waits = s.waits := rfl
@[simp] theorem State.setSat_draws (v : BitVec 16) : (s.setSat v).draws = s.draws := rfl
@[simp] theorem State.setSat_resets (v : BitVec 16) : (s.setSat v).resets = s.resets := rfl
@[simp] theorem State.setSat_bank (v : BitVec 16) (k : Bank) : (s.setSat v).bank k = s.bank k := rfl
@[simp] theorem State.setSat_mem (v : BitVec 16) (sp : Space) : (s.setSat v).mem sp = s.mem sp := rfl
@[simp] theorem State.setSat_readByte (v : BitVec 16) (sp : Space) (x : Nat) : (s.setSat v).readByte sp x = s.readByte sp x := rfl

/-! ### setGeom -/
@[simp] theorem State.setGeom_cfg (w h : BitVec 12) : (s.setGeom w h).cfg = s.cfg := rfl
@[simp] theorem State.setGeom_status (w h : BitVec 12) : (s.setGeom w h).status = s.status := rfl
@[simp] theorem State.setGeom_ctrl (w h : BitVec 12) : (s.setGeom w h).ctrl = s.ctrl := rfl
@[simp] theorem State.setGeom_phase (w h : BitVec 12) : (s.setGeom w h).phase = s.phase := rfl
@[simp] theorem State.setGeom_sat (w h : BitVec 12) : (s.setGeom w h).sat = s.sat := rfl
@[simp] theorem State.setGeom_geomW (w h : BitVec 12) : (s.setGeom w h).geomW = w := rfl
@[simp] theorem State.setGeom_geomH (w h : BitVec 12) : (s.setGeom w h).geomH = h := rfl
@[simp] theorem State.setGeom_frameLen (w h : BitVec 12) : (s.setGeom w h).frameLen = s.frameLen := rfl
@[simp] theorem State.setGeom_palIndex (w h : BitVec 12) : (s.setGeom w h).palIndex = s.palIndex := rfl
@[simp] theorem State.setGeom_pal0 (w h : BitVec 12) : (s.setGeom w h).pal0 = s.pal0 := rfl
@[simp] theorem State.setGeom_pal1 (w h : BitVec 12) : (s.setGeom w h).pal1 = s.pal1 := rfl
@[simp] theorem State.setGeom_build (w h : BitVec 12) : (s.setGeom w h).build = s.build := rfl
@[simp] theorem State.setGeom_snap (w h : BitVec 12) : (s.setGeom w h).snap = s.snap := rfl
@[simp] theorem State.setGeom_inMem (w h : BitVec 12) : (s.setGeom w h).inMem = s.inMem := rfl
@[simp] theorem State.setGeom_outMem (w h : BitVec 12) : (s.setGeom w h).outMem = s.outMem := rfl
@[simp] theorem State.setGeom_resp (w h : BitVec 12) : (s.setGeom w h).resp = s.resp := rfl
@[simp] theorem State.setGeom_prog (w h : BitVec 12) : (s.setGeom w h).prog = s.prog := rfl
@[simp] theorem State.setGeom_turns (w h : BitVec 12) : (s.setGeom w h).turns = s.turns := rfl
@[simp] theorem State.setGeom_waits (w h : BitVec 12) : (s.setGeom w h).waits = s.waits := rfl
@[simp] theorem State.setGeom_draws (w h : BitVec 12) : (s.setGeom w h).draws = s.draws := rfl
@[simp] theorem State.setGeom_resets (w h : BitVec 12) : (s.setGeom w h).resets = s.resets := rfl
@[simp] theorem State.setGeom_bank (w h : BitVec 12) (k : Bank) : (s.setGeom w h).bank k = s.bank k := rfl
@[simp] theorem State.setGeom_mem (w h : BitVec 12) (sp : Space) : (s.setGeom w h).mem sp = s.mem sp := rfl
@[simp] theorem State.setGeom_readByte (w h : BitVec 12) (sp : Space) (x : Nat) : (s.setGeom w h).readByte sp x = s.readByte sp x := rfl

/-! ### setFrameLen -/
@[simp] theorem State.setFrameLen_cfg (v : BitVec 24) : (s.setFrameLen v).cfg = s.cfg := rfl
@[simp] theorem State.setFrameLen_status (v : BitVec 24) : (s.setFrameLen v).status = s.status := rfl
@[simp] theorem State.setFrameLen_ctrl (v : BitVec 24) : (s.setFrameLen v).ctrl = s.ctrl := rfl
@[simp] theorem State.setFrameLen_phase (v : BitVec 24) : (s.setFrameLen v).phase = s.phase := rfl
@[simp] theorem State.setFrameLen_sat (v : BitVec 24) : (s.setFrameLen v).sat = s.sat := rfl
@[simp] theorem State.setFrameLen_geomW (v : BitVec 24) : (s.setFrameLen v).geomW = s.geomW := rfl
@[simp] theorem State.setFrameLen_geomH (v : BitVec 24) : (s.setFrameLen v).geomH = s.geomH := rfl
@[simp] theorem State.setFrameLen_frameLen (v : BitVec 24) : (s.setFrameLen v).frameLen = v := rfl
@[simp] theorem State.setFrameLen_palIndex (v : BitVec 24) : (s.setFrameLen v).palIndex = s.palIndex := rfl
@[simp] theorem State.setFrameLen_pal0 (v : BitVec 24) : (s.setFrameLen v).pal0 = s.pal0 := rfl
@[simp] theorem State.setFrameLen_pal1 (v : BitVec 24) : (s.setFrameLen v).pal1 = s.pal1 := rfl
@[simp] theorem State.setFrameLen_build (v : BitVec 24) : (s.setFrameLen v).build = s.build := rfl
@[simp] theorem State.setFrameLen_snap (v : BitVec 24) : (s.setFrameLen v).snap = s.snap := rfl
@[simp] theorem State.setFrameLen_inMem (v : BitVec 24) : (s.setFrameLen v).inMem = s.inMem := rfl
@[simp] theorem State.setFrameLen_outMem (v : BitVec 24) : (s.setFrameLen v).outMem = s.outMem := rfl
@[simp] theorem State.setFrameLen_resp (v : BitVec 24) : (s.setFrameLen v).resp = s.resp := rfl
@[simp] theorem State.setFrameLen_prog (v : BitVec 24) : (s.setFrameLen v).prog = s.prog := rfl
@[simp] theorem State.setFrameLen_turns (v : BitVec 24) : (s.setFrameLen v).turns = s.turns := rfl
@[simp] theorem State.setFrameLen_waits (v : BitVec 24) : (s.setFrameLen v).waits = s.waits := rfl
@[simp] theorem State.setFrameLen_draws (v : BitVec 24) : (s.setFrameLen v).draws = s.draws := rfl
@[simp] theorem State.setFrameLen_resets (v : BitVec 24) : (s.setFrameLen v).resets = s.resets := rfl
@[simp] theorem State.setFrameLen_bank (v : BitVec 24) (k : Bank) : (s.setFrameLen v).bank k = s.bank k := rfl
@[simp] theorem State.setFrameLen_mem (v : BitVec 24) (sp : Space) : (s.setFrameLen v).mem sp = s.mem sp := rfl
@[simp] theorem State.setFrameLen_readByte (v : BitVec 24) (sp : Space) (x : Nat) : (s.setFrameLen v).readByte sp x = s.readByte sp x := rfl

/-! ### setPalIndex -/
@[simp] theorem State.setPalIndex_cfg (v : BitVec 8) : (s.setPalIndex v).cfg = s.cfg := rfl
@[simp] theorem State.setPalIndex_status (v : BitVec 8) : (s.setPalIndex v).status = s.status := rfl
@[simp] theorem State.setPalIndex_ctrl (v : BitVec 8) : (s.setPalIndex v).ctrl = s.ctrl := rfl
@[simp] theorem State.setPalIndex_phase (v : BitVec 8) : (s.setPalIndex v).phase = s.phase := rfl
@[simp] theorem State.setPalIndex_sat (v : BitVec 8) : (s.setPalIndex v).sat = s.sat := rfl
@[simp] theorem State.setPalIndex_geomW (v : BitVec 8) : (s.setPalIndex v).geomW = s.geomW := rfl
@[simp] theorem State.setPalIndex_geomH (v : BitVec 8) : (s.setPalIndex v).geomH = s.geomH := rfl
@[simp] theorem State.setPalIndex_frameLen (v : BitVec 8) : (s.setPalIndex v).frameLen = s.frameLen := rfl
@[simp] theorem State.setPalIndex_palIndex (v : BitVec 8) : (s.setPalIndex v).palIndex = v := rfl
@[simp] theorem State.setPalIndex_pal0 (v : BitVec 8) : (s.setPalIndex v).pal0 = s.pal0 := rfl
@[simp] theorem State.setPalIndex_pal1 (v : BitVec 8) : (s.setPalIndex v).pal1 = s.pal1 := rfl
@[simp] theorem State.setPalIndex_build (v : BitVec 8) : (s.setPalIndex v).build = s.build := rfl
@[simp] theorem State.setPalIndex_snap (v : BitVec 8) : (s.setPalIndex v).snap = s.snap := rfl
@[simp] theorem State.setPalIndex_inMem (v : BitVec 8) : (s.setPalIndex v).inMem = s.inMem := rfl
@[simp] theorem State.setPalIndex_outMem (v : BitVec 8) : (s.setPalIndex v).outMem = s.outMem := rfl
@[simp] theorem State.setPalIndex_resp (v : BitVec 8) : (s.setPalIndex v).resp = s.resp := rfl
@[simp] theorem State.setPalIndex_prog (v : BitVec 8) : (s.setPalIndex v).prog = s.prog := rfl
@[simp] theorem State.setPalIndex_turns (v : BitVec 8) : (s.setPalIndex v).turns = s.turns := rfl
@[simp] theorem State.setPalIndex_waits (v : BitVec 8) : (s.setPalIndex v).waits = s.waits := rfl
@[simp] theorem State.setPalIndex_draws (v : BitVec 8) : (s.setPalIndex v).draws = s.draws := rfl
@[simp] theorem State.setPalIndex_resets (v : BitVec 8) : (s.setPalIndex v).resets = s.resets := rfl
@[simp] theorem State.setPalIndex_bank (v : BitVec 8) (k : Bank) : (s.setPalIndex v).bank k = s.bank k := rfl
@[simp] theorem State.setPalIndex_mem (v : BitVec 8) (sp : Space) : (s.setPalIndex v).mem sp = s.mem sp := rfl
@[simp] theorem State.setPalIndex_readByte (v : BitVec 8) (sp : Space) (x : Nat) : (s.setPalIndex v).readByte sp x = s.readByte sp x := rfl

/-! ### setBuild -/
@[simp] theorem State.setBuild_cfg (v : BuildSnap) : (s.setBuild v).cfg = s.cfg := rfl
@[simp] theorem State.setBuild_status (v : BuildSnap) : (s.setBuild v).status = s.status := rfl
@[simp] theorem State.setBuild_ctrl (v : BuildSnap) : (s.setBuild v).ctrl = s.ctrl := rfl
@[simp] theorem State.setBuild_phase (v : BuildSnap) : (s.setBuild v).phase = s.phase := rfl
@[simp] theorem State.setBuild_sat (v : BuildSnap) : (s.setBuild v).sat = s.sat := rfl
@[simp] theorem State.setBuild_geomW (v : BuildSnap) : (s.setBuild v).geomW = s.geomW := rfl
@[simp] theorem State.setBuild_geomH (v : BuildSnap) : (s.setBuild v).geomH = s.geomH := rfl
@[simp] theorem State.setBuild_frameLen (v : BuildSnap) : (s.setBuild v).frameLen = s.frameLen := rfl
@[simp] theorem State.setBuild_palIndex (v : BuildSnap) : (s.setBuild v).palIndex = s.palIndex := rfl
@[simp] theorem State.setBuild_pal0 (v : BuildSnap) : (s.setBuild v).pal0 = s.pal0 := rfl
@[simp] theorem State.setBuild_pal1 (v : BuildSnap) : (s.setBuild v).pal1 = s.pal1 := rfl
@[simp] theorem State.setBuild_build (v : BuildSnap) : (s.setBuild v).build = v := rfl
@[simp] theorem State.setBuild_snap (v : BuildSnap) : (s.setBuild v).snap = s.snap := rfl
@[simp] theorem State.setBuild_inMem (v : BuildSnap) : (s.setBuild v).inMem = s.inMem := rfl
@[simp] theorem State.setBuild_outMem (v : BuildSnap) : (s.setBuild v).outMem = s.outMem := rfl
@[simp] theorem State.setBuild_resp (v : BuildSnap) : (s.setBuild v).resp = s.resp := rfl
@[simp] theorem State.setBuild_prog (v : BuildSnap) : (s.setBuild v).prog = s.prog := rfl
@[simp] theorem State.setBuild_turns (v : BuildSnap) : (s.setBuild v).turns = s.turns := rfl
@[simp] theorem State.setBuild_waits (v : BuildSnap) : (s.setBuild v).waits = s.waits := rfl
@[simp] theorem State.setBuild_draws (v : BuildSnap) : (s.setBuild v).draws = s.draws := rfl
@[simp] theorem State.setBuild_resets (v : BuildSnap) : (s.setBuild v).resets = s.resets := rfl
@[simp] theorem State.setBuild_bank (v : BuildSnap) (k : Bank) : (s.setBuild v).bank k = s.bank k := rfl
@[simp] theorem State.setBuild_mem (v : BuildSnap) (sp : Space) : (s.setBuild v).mem sp = s.mem sp := rfl
@[simp] theorem State.setBuild_readByte (v : BuildSnap) (sp : Space) (x : Nat) : (s.setBuild v).readByte sp x = s.readByte sp x := rfl

/-! ### setSnap -/
@[simp] theorem State.setSnap_cfg (v : RenderSnap) : (s.setSnap v).cfg = s.cfg := rfl
@[simp] theorem State.setSnap_status (v : RenderSnap) : (s.setSnap v).status = s.status := rfl
@[simp] theorem State.setSnap_ctrl (v : RenderSnap) : (s.setSnap v).ctrl = s.ctrl := rfl
@[simp] theorem State.setSnap_phase (v : RenderSnap) : (s.setSnap v).phase = s.phase := rfl
@[simp] theorem State.setSnap_sat (v : RenderSnap) : (s.setSnap v).sat = s.sat := rfl
@[simp] theorem State.setSnap_geomW (v : RenderSnap) : (s.setSnap v).geomW = s.geomW := rfl
@[simp] theorem State.setSnap_geomH (v : RenderSnap) : (s.setSnap v).geomH = s.geomH := rfl
@[simp] theorem State.setSnap_frameLen (v : RenderSnap) : (s.setSnap v).frameLen = s.frameLen := rfl
@[simp] theorem State.setSnap_palIndex (v : RenderSnap) : (s.setSnap v).palIndex = s.palIndex := rfl
@[simp] theorem State.setSnap_pal0 (v : RenderSnap) : (s.setSnap v).pal0 = s.pal0 := rfl
@[simp] theorem State.setSnap_pal1 (v : RenderSnap) : (s.setSnap v).pal1 = s.pal1 := rfl
@[simp] theorem State.setSnap_build (v : RenderSnap) : (s.setSnap v).build = s.build := rfl
@[simp] theorem State.setSnap_snap (v : RenderSnap) : (s.setSnap v).snap = v := rfl
@[simp] theorem State.setSnap_inMem (v : RenderSnap) : (s.setSnap v).inMem = s.inMem := rfl
@[simp] theorem State.setSnap_outMem (v : RenderSnap) : (s.setSnap v).outMem = s.outMem := rfl
@[simp] theorem State.setSnap_resp (v : RenderSnap) : (s.setSnap v).resp = s.resp := rfl
@[simp] theorem State.setSnap_prog (v : RenderSnap) : (s.setSnap v).prog = s.prog := rfl
@[simp] theorem State.setSnap_turns (v : RenderSnap) : (s.setSnap v).turns = s.turns := rfl
@[simp] theorem State.setSnap_waits (v : RenderSnap) : (s.setSnap v).waits = s.waits := rfl
@[simp] theorem State.setSnap_draws (v : RenderSnap) : (s.setSnap v).draws = s.draws := rfl
@[simp] theorem State.setSnap_resets (v : RenderSnap) : (s.setSnap v).resets = s.resets := rfl
@[simp] theorem State.setSnap_bank (v : RenderSnap) (k : Bank) : (s.setSnap v).bank k = s.bank k := rfl
@[simp] theorem State.setSnap_mem (v : RenderSnap) (sp : Space) : (s.setSnap v).mem sp = s.mem sp := rfl
@[simp] theorem State.setSnap_readByte (v : RenderSnap) (sp : Space) (x : Nat) : (s.setSnap v).readByte sp x = s.readByte sp x := rfl

/-! ### setResp -/
@[simp] theorem State.setResp_cfg (v : Response) : (s.setResp v).cfg = s.cfg := rfl
@[simp] theorem State.setResp_status (v : Response) : (s.setResp v).status = s.status := rfl
@[simp] theorem State.setResp_ctrl (v : Response) : (s.setResp v).ctrl = s.ctrl := rfl
@[simp] theorem State.setResp_phase (v : Response) : (s.setResp v).phase = s.phase := rfl
@[simp] theorem State.setResp_sat (v : Response) : (s.setResp v).sat = s.sat := rfl
@[simp] theorem State.setResp_geomW (v : Response) : (s.setResp v).geomW = s.geomW := rfl
@[simp] theorem State.setResp_geomH (v : Response) : (s.setResp v).geomH = s.geomH := rfl
@[simp] theorem State.setResp_frameLen (v : Response) : (s.setResp v).frameLen = s.frameLen := rfl
@[simp] theorem State.setResp_palIndex (v : Response) : (s.setResp v).palIndex = s.palIndex := rfl
@[simp] theorem State.setResp_pal0 (v : Response) : (s.setResp v).pal0 = s.pal0 := rfl
@[simp] theorem State.setResp_pal1 (v : Response) : (s.setResp v).pal1 = s.pal1 := rfl
@[simp] theorem State.setResp_build (v : Response) : (s.setResp v).build = s.build := rfl
@[simp] theorem State.setResp_snap (v : Response) : (s.setResp v).snap = s.snap := rfl
@[simp] theorem State.setResp_inMem (v : Response) : (s.setResp v).inMem = s.inMem := rfl
@[simp] theorem State.setResp_outMem (v : Response) : (s.setResp v).outMem = s.outMem := rfl
@[simp] theorem State.setResp_resp (v : Response) : (s.setResp v).resp = v := rfl
@[simp] theorem State.setResp_prog (v : Response) : (s.setResp v).prog = s.prog := rfl
@[simp] theorem State.setResp_turns (v : Response) : (s.setResp v).turns = s.turns := rfl
@[simp] theorem State.setResp_waits (v : Response) : (s.setResp v).waits = s.waits := rfl
@[simp] theorem State.setResp_draws (v : Response) : (s.setResp v).draws = s.draws := rfl
@[simp] theorem State.setResp_resets (v : Response) : (s.setResp v).resets = s.resets := rfl
@[simp] theorem State.setResp_bank (v : Response) (k : Bank) : (s.setResp v).bank k = s.bank k := rfl
@[simp] theorem State.setResp_mem (v : Response) (sp : Space) : (s.setResp v).mem sp = s.mem sp := rfl
@[simp] theorem State.setResp_readByte (v : Response) (sp : Space) (x : Nat) : (s.setResp v).readByte sp x = s.readByte sp x := rfl

/-! ### setProg -/
@[simp] theorem State.setProg_cfg (v : List HostOp) : (s.setProg v).cfg = s.cfg := rfl
@[simp] theorem State.setProg_status (v : List HostOp) : (s.setProg v).status = s.status := rfl
@[simp] theorem State.setProg_ctrl (v : List HostOp) : (s.setProg v).ctrl = s.ctrl := rfl
@[simp] theorem State.setProg_phase (v : List HostOp) : (s.setProg v).phase = s.phase := rfl
@[simp] theorem State.setProg_sat (v : List HostOp) : (s.setProg v).sat = s.sat := rfl
@[simp] theorem State.setProg_geomW (v : List HostOp) : (s.setProg v).geomW = s.geomW := rfl
@[simp] theorem State.setProg_geomH (v : List HostOp) : (s.setProg v).geomH = s.geomH := rfl
@[simp] theorem State.setProg_frameLen (v : List HostOp) : (s.setProg v).frameLen = s.frameLen := rfl
@[simp] theorem State.setProg_palIndex (v : List HostOp) : (s.setProg v).palIndex = s.palIndex := rfl
@[simp] theorem State.setProg_pal0 (v : List HostOp) : (s.setProg v).pal0 = s.pal0 := rfl
@[simp] theorem State.setProg_pal1 (v : List HostOp) : (s.setProg v).pal1 = s.pal1 := rfl
@[simp] theorem State.setProg_build (v : List HostOp) : (s.setProg v).build = s.build := rfl
@[simp] theorem State.setProg_snap (v : List HostOp) : (s.setProg v).snap = s.snap := rfl
@[simp] theorem State.setProg_inMem (v : List HostOp) : (s.setProg v).inMem = s.inMem := rfl
@[simp] theorem State.setProg_outMem (v : List HostOp) : (s.setProg v).outMem = s.outMem := rfl
@[simp] theorem State.setProg_resp (v : List HostOp) : (s.setProg v).resp = s.resp := rfl
@[simp] theorem State.setProg_prog (v : List HostOp) : (s.setProg v).prog = v := rfl
@[simp] theorem State.setProg_turns (v : List HostOp) : (s.setProg v).turns = s.turns := rfl
@[simp] theorem State.setProg_waits (v : List HostOp) : (s.setProg v).waits = s.waits := rfl
@[simp] theorem State.setProg_draws (v : List HostOp) : (s.setProg v).draws = s.draws := rfl
@[simp] theorem State.setProg_resets (v : List HostOp) : (s.setProg v).resets = s.resets := rfl
@[simp] theorem State.setProg_bank (v : List HostOp) (k : Bank) : (s.setProg v).bank k = s.bank k := rfl
@[simp] theorem State.setProg_mem (v : List HostOp) (sp : Space) : (s.setProg v).mem sp = s.mem sp := rfl
@[simp] theorem State.setProg_readByte (v : List HostOp) (sp : Space) (x : Nat) : (s.setProg v).readByte sp x = s.readByte sp x := rfl

/-! ### setTurns -/
@[simp] theorem State.setTurns_cfg (v : List Agent) : (s.setTurns v).cfg = s.cfg := rfl
@[simp] theorem State.setTurns_status (v : List Agent) : (s.setTurns v).status = s.status := rfl
@[simp] theorem State.setTurns_ctrl (v : List Agent) : (s.setTurns v).ctrl = s.ctrl := rfl
@[simp] theorem State.setTurns_phase (v : List Agent) : (s.setTurns v).phase = s.phase := rfl
@[simp] theorem State.setTurns_sat (v : List Agent) : (s.setTurns v).sat = s.sat := rfl
@[simp] theorem State.setTurns_geomW (v : List Agent) : (s.setTurns v).geomW = s.geomW := rfl
@[simp] theorem State.setTurns_geomH (v : List Agent) : (s.setTurns v).geomH = s.geomH := rfl
@[simp] theorem State.setTurns_frameLen (v : List Agent) : (s.setTurns v).frameLen = s.frameLen := rfl
@[simp] theorem State.setTurns_palIndex (v : List Agent) : (s.setTurns v).palIndex = s.palIndex := rfl
@[simp] theorem State.setTurns_pal0 (v : List Agent) : (s.setTurns v).pal0 = s.pal0 := rfl
@[simp] theorem State.setTurns_pal1 (v : List Agent) : (s.setTurns v).pal1 = s.pal1 := rfl
@[simp] theorem State.setTurns_build (v : List Agent) : (s.setTurns v).build = s.build := rfl
@[simp] theorem State.setTurns_snap (v : List Agent) : (s.setTurns v).snap = s.snap := rfl
@[simp] theorem State.setTurns_inMem (v : List Agent) : (s.setTurns v).inMem = s.inMem := rfl
@[simp] theorem State.setTurns_outMem (v : List Agent) : (s.setTurns v).outMem = s.outMem := rfl
@[simp] theorem State.setTurns_resp (v : List Agent) : (s.setTurns v).resp = s.resp := rfl
@[simp] theorem State.setTurns_prog (v : List Agent) : (s.setTurns v).prog = s.prog := rfl
@[simp] theorem State.setTurns_turns (v : List Agent) : (s.setTurns v).turns = v := rfl
@[simp] theorem State.setTurns_waits (v : List Agent) : (s.setTurns v).waits = s.waits := rfl
@[simp] theorem State.setTurns_draws (v : List Agent) : (s.setTurns v).draws = s.draws := rfl
@[simp] theorem State.setTurns_resets (v : List Agent) : (s.setTurns v).resets = s.resets := rfl
@[simp] theorem State.setTurns_bank (v : List Agent) (k : Bank) : (s.setTurns v).bank k = s.bank k := rfl
@[simp] theorem State.setTurns_mem (v : List Agent) (sp : Space) : (s.setTurns v).mem sp = s.mem sp := rfl
@[simp] theorem State.setTurns_readByte (v : List Agent) (sp : Space) (x : Nat) : (s.setTurns v).readByte sp x = s.readByte sp x := rfl

/-! ### setWaits -/
@[simp] theorem State.setWaits_cfg (v : Waits) : (s.setWaits v).cfg = s.cfg := rfl
@[simp] theorem State.setWaits_status (v : Waits) : (s.setWaits v).status = s.status := rfl
@[simp] theorem State.setWaits_ctrl (v : Waits) : (s.setWaits v).ctrl = s.ctrl := rfl
@[simp] theorem State.setWaits_phase (v : Waits) : (s.setWaits v).phase = s.phase := rfl
@[simp] theorem State.setWaits_sat (v : Waits) : (s.setWaits v).sat = s.sat := rfl
@[simp] theorem State.setWaits_geomW (v : Waits) : (s.setWaits v).geomW = s.geomW := rfl
@[simp] theorem State.setWaits_geomH (v : Waits) : (s.setWaits v).geomH = s.geomH := rfl
@[simp] theorem State.setWaits_frameLen (v : Waits) : (s.setWaits v).frameLen = s.frameLen := rfl
@[simp] theorem State.setWaits_palIndex (v : Waits) : (s.setWaits v).palIndex = s.palIndex := rfl
@[simp] theorem State.setWaits_pal0 (v : Waits) : (s.setWaits v).pal0 = s.pal0 := rfl
@[simp] theorem State.setWaits_pal1 (v : Waits) : (s.setWaits v).pal1 = s.pal1 := rfl
@[simp] theorem State.setWaits_build (v : Waits) : (s.setWaits v).build = s.build := rfl
@[simp] theorem State.setWaits_snap (v : Waits) : (s.setWaits v).snap = s.snap := rfl
@[simp] theorem State.setWaits_inMem (v : Waits) : (s.setWaits v).inMem = s.inMem := rfl
@[simp] theorem State.setWaits_outMem (v : Waits) : (s.setWaits v).outMem = s.outMem := rfl
@[simp] theorem State.setWaits_resp (v : Waits) : (s.setWaits v).resp = s.resp := rfl
@[simp] theorem State.setWaits_prog (v : Waits) : (s.setWaits v).prog = s.prog := rfl
@[simp] theorem State.setWaits_turns (v : Waits) : (s.setWaits v).turns = s.turns := rfl
@[simp] theorem State.setWaits_waits (v : Waits) : (s.setWaits v).waits = v := rfl
@[simp] theorem State.setWaits_draws (v : Waits) : (s.setWaits v).draws = s.draws := rfl
@[simp] theorem State.setWaits_resets (v : Waits) : (s.setWaits v).resets = s.resets := rfl
@[simp] theorem State.setWaits_bank (v : Waits) (k : Bank) : (s.setWaits v).bank k = s.bank k := rfl
@[simp] theorem State.setWaits_mem (v : Waits) (sp : Space) : (s.setWaits v).mem sp = s.mem sp := rfl
@[simp] theorem State.setWaits_readByte (v : Waits) (sp : Space) (x : Nat) : (s.setWaits v).readByte sp x = s.readByte sp x := rfl

/-! ### setDraws -/
@[simp] theorem State.setDraws_cfg (n : Nat) : (s.setDraws n).cfg = s.cfg := rfl
@[simp] theorem State.setDraws_status (n : Nat) : (s.setDraws n).status = s.status := rfl
@[simp] theorem State.setDraws_ctrl (n : Nat) : (s.setDraws n).ctrl = s.ctrl := rfl
@[simp] theorem State.setDraws_phase (n : Nat) : (s.setDraws n).phase = s.phase := rfl
@[simp] theorem State.setDraws_sat (n : Nat) : (s.setDraws n).sat = s.sat := rfl
@[simp] theorem State.setDraws_geomW (n : Nat) : (s.setDraws n).geomW = s.geomW := rfl
@[simp] theorem State.setDraws_geomH (n : Nat) : (s.setDraws n).geomH = s.geomH := rfl
@[simp] theorem State.setDraws_frameLen (n : Nat) : (s.setDraws n).frameLen = s.frameLen := rfl
@[simp] theorem State.setDraws_palIndex (n : Nat) : (s.setDraws n).palIndex = s.palIndex := rfl
@[simp] theorem State.setDraws_pal0 (n : Nat) : (s.setDraws n).pal0 = s.pal0 := rfl
@[simp] theorem State.setDraws_pal1 (n : Nat) : (s.setDraws n).pal1 = s.pal1 := rfl
@[simp] theorem State.setDraws_build (n : Nat) : (s.setDraws n).build = s.build := rfl
@[simp] theorem State.setDraws_snap (n : Nat) : (s.setDraws n).snap = s.snap := rfl
@[simp] theorem State.setDraws_inMem (n : Nat) : (s.setDraws n).inMem = s.inMem := rfl
@[simp] theorem State.setDraws_outMem (n : Nat) : (s.setDraws n).outMem = s.outMem := rfl
@[simp] theorem State.setDraws_resp (n : Nat) : (s.setDraws n).resp = s.resp := rfl
@[simp] theorem State.setDraws_prog (n : Nat) : (s.setDraws n).prog = s.prog := rfl
@[simp] theorem State.setDraws_turns (n : Nat) : (s.setDraws n).turns = s.turns := rfl
@[simp] theorem State.setDraws_waits (n : Nat) : (s.setDraws n).waits = s.waits := rfl
@[simp] theorem State.setDraws_draws (n : Nat) : (s.setDraws n).draws = n := rfl
@[simp] theorem State.setDraws_resets (n : Nat) : (s.setDraws n).resets = s.resets := rfl
@[simp] theorem State.setDraws_bank (n : Nat) (k : Bank) : (s.setDraws n).bank k = s.bank k := rfl
@[simp] theorem State.setDraws_mem (n : Nat) (sp : Space) : (s.setDraws n).mem sp = s.mem sp := rfl
@[simp] theorem State.setDraws_readByte (n : Nat) (sp : Space) (x : Nat) : (s.setDraws n).readByte sp x = s.readByte sp x := rfl

/-! ### setBank -/
@[simp] theorem State.setBank_cfg (k : Bank) (p : Palette) : (s.setBank k p).cfg = s.cfg := by cases k <;> rfl
@[simp] theorem State.setBank_status (k : Bank) (p : Palette) : (s.setBank k p).status = s.status := by cases k <;> rfl
@[simp] theorem State.setBank_ctrl (k : Bank) (p : Palette) : (s.setBank k p).ctrl = s.ctrl := by cases k <;> rfl
@[simp] theorem State.setBank_phase (k : Bank) (p : Palette) : (s.setBank k p).phase = s.phase := by cases k <;> rfl
@[simp] theorem State.setBank_sat (k : Bank) (p : Palette) : (s.setBank k p).sat = s.sat := by cases k <;> rfl
@[simp] theorem State.setBank_geomW (k : Bank) (p : Palette) : (s.setBank k p).geomW = s.geomW := by cases k <;> rfl
@[simp] theorem State.setBank_geomH (k : Bank) (p : Palette) : (s.setBank k p).geomH = s.geomH := by cases k <;> rfl
@[simp] theorem State.setBank_frameLen (k : Bank) (p : Palette) : (s.setBank k p).frameLen = s.frameLen := by cases k <;> rfl
@[simp] theorem State.setBank_palIndex (k : Bank) (p : Palette) : (s.setBank k p).palIndex = s.palIndex := by cases k <;> rfl
@[simp] theorem State.setBank_build (k : Bank) (p : Palette) : (s.setBank k p).build = s.build := by cases k <;> rfl
@[simp] theorem State.setBank_snap (k : Bank) (p : Palette) : (s.setBank k p).snap = s.snap := by cases k <;> rfl
@[simp] theorem State.setBank_inMem (k : Bank) (p : Palette) : (s.setBank k p).inMem = s.inMem := by cases k <;> rfl
@[simp] theorem State.setBank_outMem (k : Bank) (p : Palette) : (s.setBank k p).outMem = s.outMem := by cases k <;> rfl
@[simp] theorem State.setBank_resp (k : Bank) (p : Palette) : (s.setBank k p).resp = s.resp := by cases k <;> rfl
@[simp] theorem State.setBank_prog (k : Bank) (p : Palette) : (s.setBank k p).prog = s.prog := by cases k <;> rfl
@[simp] theorem State.setBank_turns (k : Bank) (p : Palette) : (s.setBank k p).turns = s.turns := by cases k <;> rfl
@[simp] theorem State.setBank_waits (k : Bank) (p : Palette) : (s.setBank k p).waits = s.waits := by cases k <;> rfl
@[simp] theorem State.setBank_draws (k : Bank) (p : Palette) : (s.setBank k p).draws = s.draws := by cases k <;> rfl
@[simp] theorem State.setBank_resets (k : Bank) (p : Palette) : (s.setBank k p).resets = s.resets := by cases k <;> rfl
@[simp] theorem State.setBank_bank_same (k : Bank) (p : Palette) : (s.setBank k p).bank k = p := by cases k <;> rfl
@[simp] theorem State.setBank_bank_other (k : Bank) (p : Palette) : (s.setBank k.other p).bank k = s.bank k := by cases k <;> rfl
@[simp] theorem State.setBank_mem (k : Bank) (p : Palette) (sp : Space) : (s.setBank k p).mem sp = s.mem sp := by cases k <;> rfl
@[simp] theorem State.setBank_readByte (k : Bank) (p : Palette) (sp : Space) (x : Nat) : (s.setBank k p).readByte sp x = s.readByte sp x := by cases k <;> rfl

/-! ### setMem -/
@[simp] theorem State.setMem_cfg (sp : Space) (m : Memory) : (s.setMem sp m).cfg = s.cfg := by cases sp <;> rfl
@[simp] theorem State.setMem_status (sp : Space) (m : Memory) : (s.setMem sp m).status = s.status := by cases sp <;> rfl
@[simp] theorem State.setMem_ctrl (sp : Space) (m : Memory) : (s.setMem sp m).ctrl = s.ctrl := by cases sp <;> rfl
@[simp] theorem State.setMem_phase (sp : Space) (m : Memory) : (s.setMem sp m).phase = s.phase := by cases sp <;> rfl
@[simp] theorem State.setMem_sat (sp : Space) (m : Memory) : (s.setMem sp m).sat = s.sat := by cases sp <;> rfl
@[simp] theorem State.setMem_geomW (sp : Space) (m : Memory) : (s.setMem sp m).geomW = s.geomW := by cases sp <;> rfl
@[simp] theorem State.setMem_geomH (sp : Space) (m : Memory) : (s.setMem sp m).geomH = s.geomH := by cases sp <;> rfl
@[simp] theorem State.setMem_frameLen (sp : Space) (m : Memory) : (s.setMem sp m).frameLen = s.frameLen := by cases sp <;> rfl
@[simp] theorem State.setMem_palIndex (sp : Space) (m : Memory) : (s.setMem sp m).palIndex = s.palIndex := by cases sp <;> rfl
@[simp] theorem State.setMem_pal0 (sp : Space) (m : Memory) : (s.setMem sp m).pal0 = s.pal0 := by cases sp <;> rfl
@[simp] theorem State.setMem_pal1 (sp : Space) (m : Memory) : (s.setMem sp m).pal1 = s.pal1 := by cases sp <;> rfl
@[simp] theorem State.setMem_build (sp : Space) (m : Memory) : (s.setMem sp m).build = s.build := by cases sp <;> rfl
@[simp] theorem State.setMem_snap (sp : Space) (m : Memory) : (s.setMem sp m).snap = s.snap := by cases sp <;> rfl
@[simp] theorem State.setMem_resp (sp : Space) (m : Memory) : (s.setMem sp m).resp = s.resp := by cases sp <;> rfl
@[simp] theorem State.setMem_prog (sp : Space) (m : Memory) : (s.setMem sp m).prog = s.prog := by cases sp <;> rfl
@[simp] theorem State.setMem_turns (sp : Space) (m : Memory) : (s.setMem sp m).turns = s.turns := by cases sp <;> rfl
@[simp] theorem State.setMem_waits (sp : Space) (m : Memory) : (s.setMem sp m).waits = s.waits := by cases sp <;> rfl
@[simp] theorem State.setMem_draws (sp : Space) (m : Memory) : (s.setMem sp m).draws = s.draws := by cases sp <;> rfl
@[simp] theorem State.setMem_resets (sp : Space) (m : Memory) : (s.setMem sp m).resets = s.resets := by cases sp <;> rfl
@[simp] theorem State.setMem_bank (sp : Space) (m : Memory) (k : Bank) : (s.setMem sp m).bank k = s.bank k := by cases sp <;> rfl
@[simp] theorem State.setMem_mem_same (sp : Space) (m : Memory) : (s.setMem sp m).mem sp = m := by cases sp <;> rfl
theorem State.setMem_mem_ne (sp sp' : Space) (m : Memory) (h : sp' ≠ sp) : (s.setMem sp m).mem sp' = s.mem sp' := by
  cases sp <;> cases sp' <;> first | rfl | exact absurd rfl h

/-! ### requestBuild: an update of STATUS alone -/
@[simp] theorem State.requestBuild_cfg : (s.requestBuild).cfg = s.cfg := rfl
@[simp] theorem State.requestBuild_ctrl : (s.requestBuild).ctrl = s.ctrl := rfl
@[simp] theorem State.requestBuild_phase : (s.requestBuild).phase = s.phase := rfl
@[simp] theorem State.requestBuild_sat : (s.requestBuild).sat = s.sat := rfl
@[simp] theorem State.requestBuild_geomW : (s.requestBuild).geomW = s.geomW := rfl
@[simp] theorem State.requestBuild_geomH : (s.requestBuild).geomH = s.geomH := rfl
@[simp] theorem State.requestBuild_frameLen : (s.requestBuild).frameLen = s.frameLen := rfl
@[simp] theorem State.requestBuild_palIndex : (s.requestBuild).palIndex = s.palIndex := rfl
@[simp] theorem State.requestBuild_pal0 : (s.requestBuild).pal0 = s.pal0 := rfl
@[simp] theorem State.requestBuild_pal1 : (s.requestBuild).pal1 = s.pal1 := rfl
@[simp] theorem State.requestBuild_build : (s.requestBuild).build = s.build := rfl
@[simp] theorem State.requestBuild_snap : (s.requestBuild).snap = s.snap := rfl
@[simp] theorem State.requestBuild_inMem : (s.requestBuild).inMem = s.inMem := rfl
@[simp] theorem State.requestBuild_outMem : (s.requestBuild).outMem = s.outMem := rfl
@[simp] theorem State.requestBuild_resp : (s.requestBuild).resp = s.resp := rfl
@[simp] theorem State.requestBuild_prog : (s.requestBuild).prog = s.prog := rfl
@[simp] theorem State.requestBuild_turns : (s.requestBuild).turns = s.turns := rfl
@[simp] theorem State.requestBuild_waits : (s.requestBuild).waits = s.waits := rfl
@[simp] theorem State.requestBuild_draws : (s.requestBuild).draws = s.draws := rfl
@[simp] theorem State.requestBuild_resets : (s.requestBuild).resets = s.resets := rfl
@[simp] theorem State.requestBuild_bank (k : Bank) : (s.requestBuild).bank k = s.bank k := rfl
@[simp] theorem State.requestBuild_mem (sp : Space) : (s.requestBuild).mem sp = s.mem sp := rfl
@[simp] theorem State.requestBuild_readByte (sp : Space) (x : Nat) : (s.requestBuild).readByte sp x = s.readByte sp x := rfl

/-! ### recordError: an update of STATUS alone -/
@[simp] theorem State.recordError_cfg (c : ErrorCode) : (s.recordError c).cfg = s.cfg := rfl
@[simp] theorem State.recordError_ctrl (c : ErrorCode) : (s.recordError c).ctrl = s.ctrl := rfl
@[simp] theorem State.recordError_phase (c : ErrorCode) : (s.recordError c).phase = s.phase := rfl
@[simp] theorem State.recordError_sat (c : ErrorCode) : (s.recordError c).sat = s.sat := rfl
@[simp] theorem State.recordError_geomW (c : ErrorCode) : (s.recordError c).geomW = s.geomW := rfl
@[simp] theorem State.recordError_geomH (c : ErrorCode) : (s.recordError c).geomH = s.geomH := rfl
@[simp] theorem State.recordError_frameLen (c : ErrorCode) : (s.recordError c).frameLen = s.frameLen := rfl
@[simp] theorem State.recordError_palIndex (c : ErrorCode) : (s.recordError c).palIndex = s.palIndex := rfl
@[simp] theorem State.recordError_pal0 (c : ErrorCode) : (s.recordError c).pal0 = s.pal0 := rfl
@[simp] theorem State.recordError_pal1 (c : ErrorCode) : (s.recordError c).pal1 = s.pal1 := rfl
@[simp] theorem State.recordError_build (c : ErrorCode) : (s.recordError c).build = s.build := rfl
@[simp] theorem State.recordError_snap (c : ErrorCode) : (s.recordError c).snap = s.snap := rfl
@[simp] theorem State.recordError_inMem (c : ErrorCode) : (s.recordError c).inMem = s.inMem := rfl
@[simp] theorem State.recordError_outMem (c : ErrorCode) : (s.recordError c).outMem = s.outMem := rfl
@[simp] theorem State.recordError_resp (c : ErrorCode) : (s.recordError c).resp = s.resp := rfl
@[simp] theorem State.recordError_prog (c : ErrorCode) : (s.recordError c).prog = s.prog := rfl
@[simp] theorem State.recordError_turns (c : ErrorCode) : (s.recordError c).turns = s.turns := rfl
@[simp] theorem State.recordError_waits (c : ErrorCode) : (s.recordError c).waits = s.waits := rfl
@[simp] theorem State.recordError_draws (c : ErrorCode) : (s.recordError c).draws = s.draws := rfl
@[simp] theorem State.recordError_resets (c : ErrorCode) : (s.recordError c).resets = s.resets := rfl
@[simp] theorem State.recordError_bank (c : ErrorCode) (k : Bank) : (s.recordError c).bank k = s.bank k := rfl
@[simp] theorem State.recordError_mem (c : ErrorCode) (sp : Space) : (s.recordError c).mem sp = s.mem sp := rfl
@[simp] theorem State.recordError_readByte (c : ErrorCode) (sp : Space) (x : Nat) : (s.recordError c).readByte sp x = s.readByte sp x := rfl

@[simp] theorem State.requestBuild_status : s.requestBuild.status = { s.status with buildPending := true } := rfl
@[simp] theorem State.recordError_status (c : ErrorCode) : (s.recordError c).status = s.status.record c := rfl

end Sys2Proof.Machine
end

