-- ==== Sys2Proof/Laws/Ops.lean ====
section
/-! SUPPORT. Recording an error, writing STATUS, accepting a render, reset: everything each of them does, field by field. -/

namespace Sys2Proof.Machine

theorem ErrorCode.bit_ne_zero (c : ErrorCode) : c.bit ≠ 0 := by cases c <;> decide

theorem ErrorCode.num_range (c : ErrorCode) : 1 ≤ c.num ∧ c.num ≤ 8 := by cases c <;> decide

@[simp] theorem Status.record_buildBusy (st : Status) (c : ErrorCode) : (st.record c).buildBusy = st.buildBusy := rfl
@[simp] theorem Status.record_buildPending (st : Status) (c : ErrorCode) : (st.record c).buildPending = st.buildPending := rfl
@[simp] theorem Status.record_palValid (st : Status) (c : ErrorCode) : (st.record c).palValid = st.palValid := rfl
@[simp] theorem Status.record_activeBank (st : Status) (c : ErrorCode) : (st.record c).activeBank = st.activeBank := rfl
@[simp] theorem Status.record_renderBusy (st : Status) (c : ErrorCode) : (st.record c).renderBusy = st.renderBusy := rfl
@[simp] theorem Status.record_renderDone (st : Status) (c : ErrorCode) : (st.record c).renderDone = st.renderDone := rfl
@[simp] theorem Status.record_fatal (st : Status) (c : ErrorCode) :
    (st.record c).fatal = (st.fatal || decide (c = .geometryMismatch)) := rfl
@[simp] theorem Status.record_errFirst (st : Status) (c : ErrorCode) :
    (st.record c).errFirst = if st.errBits = 0 then BitVec.ofNat 4 c.num else st.errFirst := rfl
@[simp] theorem Status.record_errBits (st : Status) (c : ErrorCode) : (st.record c).errBits = st.errBits ||| c.bit := rfl

@[simp] theorem Status.write_buildBusy (st : Status) (v : Word) : (st.write v).buildBusy = st.buildBusy := rfl
@[simp] theorem Status.write_buildPending (st : Status) (v : Word) : (st.write v).buildPending = st.buildPending := rfl
@[simp] theorem Status.write_palValid (st : Status) (v : Word) : (st.write v).palValid = st.palValid := rfl
@[simp] theorem Status.write_activeBank (st : Status) (v : Word) : (st.write v).activeBank = st.activeBank := rfl
@[simp] theorem Status.write_renderBusy (st : Status) (v : Word) : (st.write v).renderBusy = st.renderBusy := rfl
@[simp] theorem Status.write_renderDone (st : Status) (v : Word) :
    (st.write v).renderDone = (st.renderDone && !v.getLsbD 5) := rfl
@[simp] theorem Status.write_fatal (st : Status) (v : Word) : (st.write v).fatal = st.fatal := rfl
@[simp] theorem Status.write_errFirst (st : Status) (v : Word) :
    (st.write v).errFirst = if st.errBitsAfter v = 0 then 0 else st.errFirst := rfl
@[simp] theorem Status.write_errBits (st : Status) (v : Word) : (st.write v).errBits = st.errBitsAfter v := rfl

/-- Recording an error leaves a bit set. -/
theorem Status.record_errBits_ne_zero (st : Status) (c : ErrorCode) : (st.record c).errBits ≠ 0 := by
  rw [Status.record_errBits]
  intro h
  exact c.bit_ne_zero (BitVec.or_eq_zero_iff.1 h).2

/-- The check order of RENDER (42_render.md R190, 60_exceptions.md R221): the first failing check answers. -/
theorem State.renderCheck_eq_none (s : State) : s.renderCheck = none ↔
    s.status.fatal = false ∧ s.status.renderBusy = false ∧ s.geomW ≠ 0 ∧ s.geomH ≠ 0 ∧
      s.frameLen.toNat = frameBytes s.geomW s.geomH ∧ frameBytes s.geomW s.geomH ≤ s.cfg.inMemBytes ∧
      outputBytes s.geomW s.geomH s.ctrl.scale ≤ s.cfg.outMemBytes := by
  unfold State.renderCheck
  constructor
  · intro h
    split at h
    · cases h
    · split at h
      · cases h
      · split at h
        · cases h
        · split at h
          · cases h
          · split at h
            · cases h
            · rename_i h1 h2 h3 h4 h5
              simp only [not_or, gt_iff_lt, not_lt] at h3 h5
              exact ⟨by simpa using h1, by simpa using h2, h3.1, h3.2, not_not.1 h4, h5.1, h5.2⟩
  · rintro ⟨h1, h2, h3, h4, h5, h6, h7⟩
    rw [if_neg (by simp [h1]), if_neg (by simp [h2]), if_neg (not_or.2 ⟨h3, h4⟩), if_neg (not_not.2 h5),
      if_neg (by omega)]

@[simp] theorem State.acceptRender_snap (s : State) : s.acceptRender.snap = s.takeSnap := rfl
@[simp] theorem State.acceptRender_status (s : State) :
    s.acceptRender.status = { s.status with renderDone := false, renderBusy := true } := rfl

/-- Reset keeps the configuration and the host's side, and sets the rest to its reset value. -/
theorem State.applyReset_block (s : State) :
    s.applyReset.cfg = s.cfg ∧ s.applyReset.status = (State.resetWith s.cfg).status ∧
      s.applyReset.ctrl = (State.resetWith s.cfg).ctrl ∧ s.applyReset.phase = 0 ∧ s.applyReset.sat = 0x0100 ∧
      s.applyReset.geomW = 0 ∧ s.applyReset.geomH = 0 ∧ s.applyReset.inMem = [] ∧ s.applyReset.outMem = [] :=
  ⟨rfl, rfl, rfl, rfl, rfl, rfl, rfl, rfl, rfl⟩

end Sys2Proof.Machine
end

