-- ==== Sys2Proof/Laws/Commands.lean ====
section
/-! SUPPORT. Everything a command can do: the inversion lemma of `exec`. -/

namespace Sys2Proof.Machine

/-- Every next state of a command (40_config.md, 41_palette.md section 1, 42_render.md sections 1 and 2). -/
inductive CommandResult (s : State) : State → Prop
  /-- NOP -/
  | nothing : CommandResult s s
  /-- an error: nothing but the error state changes (60_exceptions.md R222) -/
  | error (c : ErrorCode) : CommandResult s (s.recordError c)
  /-- the filter-state commands: CTRL but for STD, SCALE never 0 -/
  | ctrl (c : Ctrl) : c.std = s.ctrl.std → (c.scale = s.ctrl.scale ∨ c.scale ≠ 0) → CommandResult s (s.setCtrl c)
  /-- SET_STD -/
  | std (x : Std) : CommandResult s (s.setCtrl { s.ctrl with std := x }).requestBuild
  /-- SET_PHASE, ADJ_PHASE -/
  | phase (p : BitVec 16) : p.toNat < 36000 → CommandResult s (s.setPhase p).requestBuild
  /-- SET_SAT, ADJ_SAT -/
  | sat (q : BitVec 16) : q.toNat ≤ 0x7FFF → CommandResult s (s.setSat q).requestBuild
  /-- SET_GEOM -/
  | geom (w h : BitVec 12) : w ≠ 0 → h ≠ 0 → CommandResult s (s.setGeom w h)
  /-- SET_FRAME_LEN -/
  | frameLen (n : BitVec 24) : CommandResult s (s.setFrameLen n)
  /-- REBUILD -/
  | request : CommandResult s s.requestBuild
  /-- RENDER accepted -/
  | accept : s.renderCheck = none → CommandResult s s.acceptRender

/-- A well-formed command does one of these. -/
theorem exec_cases (i : Instr) (s t : State) (hw : i.wellFormed = true) (h : exec i s = .next t) : CommandResult s t := by
  cases i with
  | nop => cases h; exact .nothing
  | setStd x => cases h; exact .std x
  | setGeom w g =>
    simp only [exec, execSetGeom] at h
    split at h
    · cases h; exact .error _
    · rename_i hn
      cases h
      exact .geom _ _ (fun e => hn (.inl e)) (fun e => hn (.inr e))
  | setFrameLen n => cases h; exact .frameLen _
  | setPhase n => cases h; exact .phase _ (phaseMod_lt _)
  | adjPhase d => cases h; exact .phase _ (phaseMod_lt _)
  | setSat q =>
    cases h
    have hq : q ≤ 32767 := by simp [Instr.wellFormed] at hw; exact hw.2
    exact .sat _ (by have := satSet_toNat q hq; omega)
  | adjSat d => cases h; exact .sat _ (satAdjust_le _ _)
  | rebuild => cases h; exact .request
  | toggleScan => cases h; exact .ctrl _ rfl (.inl rfl)
  | toggleBlend => cases h; exact .ctrl _ rfl (.inl rfl)
  | toggleLoop => cases h; exact .ctrl _ rfl (.inl rfl)
  | setFilters a b c => cases h; exact .ctrl _ rfl (.inl rfl)
  | setScale n =>
    simp only [exec, execSetScale] at h
    split at h
    · cases h; exact .error _
    · rename_i hn; cases h; exact .ctrl _ rfl (.inr hn)
  | render =>
    simp only [exec, execRender] at h
    split at h
    · cases h; exact .error _
    · rename_i hc; cases h; exact .accept hc

/-- A command leaves the schedule and the waits. -/
theorem CommandResult.schedule {s t : State} (h : CommandResult s t) : t.turns = s.turns ∧ t.waits = s.waits := by
  cases h <;> exact ⟨rfl, rfl⟩

end Sys2Proof.Machine
end

