-- ==== Sys2Proof/Laws/Decode.lean ====
section
/-! SUPPORT. Bit fields, and what the decoder answers. -/

namespace Sys2Proof

theorem bitField_lt (v : Word) (hi lo : Nat) : bitField v hi lo < 2 ^ (hi + 1 - lo) := Nat.mod_lt _ (by positivity)

/-- A field of a word given by a number. -/
theorem bitField_ofNat (n hi lo : Nat) (h : n < 4294967296) :
    bitField (BitVec.ofNat 32 n) hi lo = n / 2 ^ lo % 2 ^ (hi + 1 - lo) := by
  rw [bitField, BitVec.toNat_ofNat, Nat.mod_eq_of_lt (a := n) (by norm_num; omega)]

theorem bitOf_ofNat (n i : Nat) (h : n < 4294967296) : bitOf (BitVec.ofNat 32 n) i = decide (n / 2 ^ i % 2 = 1) := by
  rw [bitOf, bitField_ofNat _ _ _ h, show i + 1 - i = 1 by omega, pow_one]

theorem sext16_range (n : Nat) (h : n < 65536) : -32768 ≤ sext16 n ∧ sext16 n ≤ 32767 := by
  unfold sext16; split <;> omega

/-- Sign extension undoes taking the 16-bit field (30_encoding.md R96, R105). -/
theorem sext16_field16 (d : Int) (h1 : -32768 ≤ d) (h2 : d ≤ 32767) : sext16 (field16 d) = d := by
  unfold sext16 field16; split <;> omega

theorem field16_lt (d : Int) : field16 d < 65536 := by unfold field16; omega

theorem bitNat_le (b : Bool) : bitNat b ≤ 1 := by cases b <;> decide

theorem ofBit_bit (s : Std) : Std.ofBit s.bit = s := by cases s <;> rfl

/-- Every case of the decoder, by OPCODE (30_encoding.md R99, R100). -/
theorem decode_cases (w : Word) :
    (bitField w 31 24 = 0x00 ∧ decode w = .ok .nop) ∨
    (bitField w 31 24 = 0x01 ∧ decode w = .ok (.setStd (Std.ofBit (bitOf w 0)))) ∨
    (bitField w 31 24 = 0x02 ∧ decode w = .ok (.setGeom (bitField w 23 12) (bitField w 11 0))) ∨
    (bitField w 31 24 = 0x03 ∧ decode w = .ok (.setFrameLen (bitField w 23 0))) ∨
    (bitField w 31 24 = 0x10 ∧ decode w = .ok (.setPhase (bitField w 15 0))) ∨
    (bitField w 31 24 = 0x11 ∧ decode w = .ok (.adjPhase (sext16 (bitField w 15 0)))) ∨
    (bitField w 31 24 = 0x12 ∧ decode w = .ok (.setSat (sext16 (bitField w 15 0)))) ∨
    (bitField w 31 24 = 0x13 ∧ decode w = .ok (.adjSat (sext16 (bitField w 15 0)))) ∨
    (bitField w 31 24 = 0x14 ∧ decode w = .ok .rebuild) ∨
    (bitField w 31 24 = 0x20 ∧ decode w = .ok .toggleScan) ∨
    (bitField w 31 24 = 0x21 ∧ decode w = .ok .toggleBlend) ∨
    (bitField w 31 24 = 0x22 ∧ decode w = .ok .toggleLoop) ∨
    (bitField w 31 24 = 0x23 ∧ decode w = .ok (.setFilters (bitOf w 0) (bitOf w 1) (bitOf w 2))) ∨
    (bitField w 31 24 = 0x24 ∧ decode w = .ok (.setScale (bitField w 3 0))) ∨
    (bitField w 31 24 = 0x30 ∧ decode w = .ok .render) ∨
    (bitField w 31 24 ∉ [0x00, 0x01, 0x02, 0x03, 0x10, 0x11, 0x12, 0x13, 0x14, 0x20, 0x21, 0x22, 0x23, 0x24, 0x30] ∧
      decode w = .error (.illegalOpcode (bitField w 31 24))) := by
  unfold decode
  generalize bitField w 31 24 = op
  split
  case h_16 =>
    refine Or.inr (Or.inr (Or.inr (Or.inr (Or.inr (Or.inr (Or.inr (Or.inr (Or.inr (Or.inr (Or.inr (Or.inr (Or.inr (Or.inr
      (Or.inr ⟨?_, rfl⟩))))))))))))))
    simp only [List.mem_cons, List.not_mem_nil, or_false, not_or]
    refine ⟨?_, ?_, ?_, ?_, ?_, ?_, ?_, ?_, ?_, ?_, ?_, ?_, ?_, ?_, ?_⟩ <;> assumption
  all_goals simp

/-- What the decoder answers is well formed. -/
theorem decode_wellFormed (w : Word) (i : Instr) (h : decode w = .ok i) : i.wellFormed = true := by
  have f12 := bitField_lt w 23 12
  have f0 := bitField_lt w 11 0
  have fl := bitField_lt w 23 0
  have f16 := bitField_lt w 15 0
  have f4 := bitField_lt w 3 0
  have hs := sext16_range (bitField w 15 0) (by simpa using f16)
  norm_num at f12 f0 fl f16 f4
  rcases decode_cases w with ⟨-, e⟩ | ⟨-, e⟩ | ⟨-, e⟩ | ⟨-, e⟩ | ⟨-, e⟩ | ⟨-, e⟩ | ⟨-, e⟩ | ⟨-, e⟩ | ⟨-, e⟩ | ⟨-, e⟩ | ⟨-, e⟩ |
    ⟨-, e⟩ | ⟨-, e⟩ | ⟨-, e⟩ | ⟨-, e⟩ | ⟨-, e⟩ <;> rw [e] at h <;> cases h <;>
    simp only [Instr.wellFormed, Bool.and_eq_true, decide_eq_true_eq] <;> omega

end Sys2Proof
end

