-- ==== Sys2Proof/Laws/Matrix.lean ====
section
/-! SUPPORT. Matrices: the inverse is an inverse on both sides of a vector; `rnd` of an integer. -/

namespace Sys2Proof.Machine

/-- `M · (M⁻¹ · v) = v` for an invertible matrix (42_render.md R210). -/
theorem mulVec_inverse (m : Mat3) (h : det m ≠ 0) (v : Vec3) : mulVec m (mulVec (inverse m) v) = v := by
  obtain ⟨⟨a, b, c⟩, ⟨d, e, f⟩, ⟨g, i, j⟩⟩ := m
  obtain ⟨x, y, z⟩ := v
  simp only [det, dot, cross] at h
  simp only [mulVec, inverse, vecOver, dot, cross, det, Vec3.mk.injEq]
  generalize hD : a * (e * j - f * i) + b * (f * g - d * j) + c * (d * i - e * g) = D at h ⊢
  refine ⟨?_, ?_, ?_⟩ <;> field_simp <;> rw [← hD] <;> ring

/-- `M⁻¹ · (M · v) = v` for an invertible matrix. -/
theorem inverse_mulVec (m : Mat3) (h : det m ≠ 0) (v : Vec3) : mulVec (inverse m) (mulVec m v) = v := by
  obtain ⟨⟨a, b, c⟩, ⟨d, e, f⟩, ⟨g, i, j⟩⟩ := m
  obtain ⟨x, y, z⟩ := v
  simp only [det, dot, cross] at h
  simp only [mulVec, inverse, vecOver, dot, cross, det, Vec3.mk.injEq]
  generalize hD : a * (e * j - f * i) + b * (f * g - d * j) + c * (d * i - e * g) = D at h ⊢
  refine ⟨?_, ?_, ?_⟩ <;> field_simp <;> rw [← hD] <;> ring

/-- `rnd` of an integer is the integer (42_render.md R210). -/
theorem rnd_natCast (n : Nat) : rnd (n : Rat) = n := by
  rw [rnd, Int.floor_eq_iff]
  constructor <;> push_cast <;> linarith

end Sys2Proof.Machine
end

