-- ==== Sys2Proof/Laws/Memory.lean ====
section
/-! SUPPORT. Memory: what a read gives after a write, and that every memory operation keeps the canonical form. -/

namespace Sys2Proof.Machine

theorem Memory.get?_nil (a : Nat) : Memory.get? [] a = none := rfl

theorem Memory.get?_cons (k : Nat) (b : Byte) (m : Memory) (a : Nat) :
    Memory.get? ((k, b) :: m) a = if k = a then some b else Memory.get? m a := rfl

/-- Reading after writing one byte. -/
theorem Memory.get?_set (m : Memory) (a : Nat) (v : Byte) (x : Nat) :
    Memory.get? (Memory.set m a v) x = if x = a then some v else Memory.get? m x := by
  induction m with
  | nil =>
    by_cases h : x = a
    · simp [Memory.set, Memory.get?, h]
    · simp [Memory.set, Memory.get?, h, Ne.symm h]
  | cons c m ih =>
    obtain ⟨k, b⟩ := c
    unfold Memory.set
    by_cases h1 : a < k
    · rw [if_pos h1, Memory.get?_cons]
      by_cases h : x = a
      · simp [h]
      · simp [h, Ne.symm h]
    · rw [if_neg h1]
      by_cases h2 : a = k
      · rw [if_pos h2, Memory.get?_cons, Memory.get?_cons]
        subst h2
        by_cases h : x = a
        · simp [h]
        · simp [h, Ne.symm h]
      · rw [if_neg h2, Memory.get?_cons, Memory.get?_cons, ih]
        by_cases h : x = a
        · subst h; simp [Ne.symm h2]
        · simp [h]

/-- Every offset a memory lists is one of these after a write of one byte. -/
theorem Memory.mem_set (m : Memory) (a : Nat) (v : Byte) (c : Host.Cell) (h : c ∈ Memory.set m a v) :
    c = (a, v) ∨ c ∈ m := by
  induction m with
  | nil => left; simpa [Memory.set] using h
  | cons d m ih =>
    obtain ⟨k, b⟩ := d
    unfold Memory.set at h
    split at h
    · rcases List.mem_cons.1 h with h | h
      · exact .inl h
      · exact .inr h
    · split at h
      · rcases List.mem_cons.1 h with h | h
        · exact .inl h
        · exact .inr (List.mem_cons_of_mem _ h)
      · rcases List.mem_cons.1 h with h | h
        · exact .inr (h ▸ List.mem_cons_self)
        · rcases ih h with h | h
          · exact .inl h
          · exact .inr (List.mem_cons_of_mem _ h)

theorem Memory.wf_cons (c : Host.Cell) (m : Memory) :
    Memory.wf (c :: m) = true ↔ (∀ d ∈ m, c.1 < d.1) ∧ Memory.wf m = true := by
  simp [Memory.wf, List.all_eq_true]

/-- Writing one byte keeps the canonical form. -/
theorem Memory.wf_set (m : Memory) (a : Nat) (v : Byte) (h : Memory.wf m = true) : Memory.wf (Memory.set m a v) = true := by
  induction m with
  | nil => rfl
  | cons d m ih =>
    obtain ⟨k, b⟩ := d
    obtain ⟨h1, h2⟩ := (Memory.wf_cons _ _).1 h
    unfold Memory.set
    split
    · rename_i hlt
      refine (Memory.wf_cons _ _).2 ⟨fun d hd => ?_, h⟩
      rcases List.mem_cons.1 hd with hd | hd
      · rw [hd]; exact hlt
      · exact lt_trans hlt (h1 d hd)
    · split
      · rename_i heq
        subst heq
        exact (Memory.wf_cons _ _).2 ⟨h1, h2⟩
      · rename_i hnlt hne
        refine (Memory.wf_cons _ _).2 ⟨fun d hd => ?_, ih h2⟩
        rcases Memory.mem_set m a v d hd with hd | hd
        · rw [hd]; show k < a; omega
        · exact h1 d hd

/-- A memory in canonical form lists an offset at most once: what it reads at the head. -/
theorem Memory.get?_eq_none_of_lt (m : Memory) (a : Nat) (h : ∀ d ∈ m, a < d.1) : Memory.get? m a = none := by
  induction m with
  | nil => rfl
  | cons d m ih =>
    obtain ⟨k, b⟩ := d
    have hk : a < k := h _ List.mem_cons_self
    rw [Memory.get?_cons, if_neg (by omega)]
    exact ih fun d hd => h d (List.mem_cons_of_mem _ hd)

/-- The canonical form is canonical: two such memories that read alike are the same list. -/
theorem Memory.ext_of_wf (m m' : Memory) (h : Memory.wf m = true) (h' : Memory.wf m' = true)
    (he : ∀ a, Memory.get? m a = Memory.get? m' a) : m = m' := by
  induction m generalizing m' with
  | nil =>
    cases m' with
    | nil => rfl
    | cons c m' => obtain ⟨k, b⟩ := c; have := he k; simp [Memory.get?] at this
  | cons c m ih =>
    obtain ⟨k, b⟩ := c
    obtain ⟨h1, h2⟩ := (Memory.wf_cons _ _).1 h
    cases m' with
    | nil => have := he k; simp [Memory.get?] at this
    | cons c' m' =>
      obtain ⟨k', b'⟩ := c'
      obtain ⟨h1', h2'⟩ := (Memory.wf_cons _ _).1 h'
      have hk : k = k' := by
        rcases lt_trichotomy k k' with hlt | heq | hgt
        · have := he k
          rw [Memory.get?_cons, if_pos rfl, Memory.get?_cons, if_neg (by omega),
            Memory.get?_eq_none_of_lt m' k fun d hd => lt_trans hlt (h1' d hd)] at this
          cases this
        · exact heq
        · have := he k'
          rw [Memory.get?_cons, if_neg (by omega), Memory.get?_cons, if_pos rfl,
            Memory.get?_eq_none_of_lt m k' fun d hd => lt_trans hgt (h1 d hd)] at this
          cases this
      subst hk
      have hb : b = b' := by have := he k; simpa [Memory.get?] using this
      subst hb
      refine congrArg _ (ih m' h2 h2' fun a => ?_)
      by_cases ha : k = a
      · subst ha
        rw [Memory.get?_eq_none_of_lt m k h1, Memory.get?_eq_none_of_lt m' k h1']
      · have := he a
        rwa [Memory.get?_cons, if_neg ha, Memory.get?_cons, if_neg ha] at this

/-! ### Writing a prefix -/

theorem Memory.mem_cells (a : Nat) (bs : List Byte) (c : Host.Cell) (h : c ∈ Memory.cells a bs) :
    a ≤ c.1 ∧ c.1 < a + bs.length := by
  induction bs generalizing a with
  | nil => simp [Memory.cells] at h
  | cons b bs ih =>
    rcases List.mem_cons.1 h with h | h
    · subst h; simp
    · have := ih (a + 1) h
      simp only [List.length_cons]; omega

theorem Memory.get?_append (m m' : Memory) (a : Nat) :
    Memory.get? (m ++ m') a = (Memory.get? m a).or (Memory.get? m' a) := by
  induction m with
  | nil => rfl
  | cons c m ih =>
    obtain ⟨k, b⟩ := c
    rw [List.cons_append, Memory.get?_cons, Memory.get?_cons, ih]
    by_cases h : k = a <;> simp [h]

theorem Memory.get?_cells (a : Nat) (bs : List Byte) (x : Nat) :
    Memory.get? (Memory.cells a bs) x = if a ≤ x then bs[x - a]? else none := by
  induction bs generalizing a with
  | nil => simp [Memory.cells, Memory.get?]
  | cons b bs ih =>
    rw [Memory.cells, Memory.get?_cons, ih]
    by_cases h : a = x
    · subst h; simp
    · rw [if_neg h]
      by_cases h2 : a ≤ x
      · rw [if_pos h2, if_pos (by omega), show x - a = (x - (a + 1)) + 1 by omega, List.getElem?_cons_succ]
      · rw [if_neg h2, if_neg (by omega)]

theorem Memory.get?_filter (m : Memory) (n a : Nat) (h : n ≤ a) :
    Memory.get? (m.filter fun c => decide (n ≤ c.1)) a = Memory.get? m a := by
  induction m with
  | nil => rfl
  | cons c m ih =>
    obtain ⟨k, b⟩ := c
    by_cases hk : n ≤ k
    · rw [List.filter_cons_of_pos (by simpa using hk), Memory.get?_cons, Memory.get?_cons, ih]
    · rw [List.filter_cons_of_neg (by simpa using hk), Memory.get?_cons, if_neg (by omega), ih]

theorem Memory.get?_none_of_notMem (m : Memory) (a : Nat) (h : ∀ d ∈ m, d.1 ≠ a) : Memory.get? m a = none := by
  induction m with
  | nil => rfl
  | cons d m ih =>
    obtain ⟨k, b⟩ := d
    rw [Memory.get?_cons, if_neg (h _ List.mem_cons_self)]
    exact ih fun d hd => h d (List.mem_cons_of_mem _ hd)

/-- Reading after writing a byte string at offset 0. -/
theorem Memory.get?_setPrefix (m : Memory) (bs : List Byte) (a : Nat) :
    Memory.get? (Memory.setPrefix m bs) a = if a < bs.length then bs[a]? else Memory.get? m a := by
  rw [Memory.setPrefix, Memory.get?_append, Memory.get?_cells, if_pos (Nat.zero_le _), Nat.sub_zero]
  by_cases h : a < bs.length
  · rw [if_pos h, List.getElem?_eq_getElem h]; rfl
  · rw [if_neg h, List.getElem?_eq_none (by omega), Option.none_or, Memory.get?_filter m _ a (by omega)]

theorem Memory.wf_cells_append (a : Nat) (bs : List Byte) (m : Memory) (h : Memory.wf m = true)
    (hm : ∀ d ∈ m, a + bs.length ≤ d.1) : Memory.wf (Memory.cells a bs ++ m) = true := by
  induction bs generalizing a with
  | nil => exact h
  | cons b bs ih =>
    rw [Memory.cells, List.cons_append]
    refine (Memory.wf_cons _ _).2 ⟨fun d hd => ?_, ih (a + 1) fun d hd => ?_⟩
    · rcases List.mem_append.1 hd with hd | hd
      · have := Memory.mem_cells (a + 1) bs d hd; show a < d.1; omega
      · have := hm d hd; simp only [List.length_cons] at this; show a < d.1; omega
    · have := hm d hd; simp only [List.length_cons] at this; omega

theorem Memory.wf_filter (m : Memory) (p : Host.Cell → Bool) (h : Memory.wf m = true) : Memory.wf (m.filter p) = true := by
  induction m with
  | nil => rfl
  | cons c m ih =>
    obtain ⟨h1, h2⟩ := (Memory.wf_cons _ _).1 h
    by_cases hc : p c = true
    · rw [List.filter_cons_of_pos hc]
      exact (Memory.wf_cons _ _).2 ⟨fun d hd => h1 d (List.mem_filter.1 hd).1, ih h2⟩
    · rw [List.filter_cons_of_neg hc]; exact ih h2

/-- Writing a byte string at offset 0 keeps the canonical form. -/
theorem Memory.wf_setPrefix (m : Memory) (bs : List Byte) (h : Memory.wf m = true) : Memory.wf (Memory.setPrefix m bs) = true := by
  refine Memory.wf_cells_append 0 bs _ (Memory.wf_filter m _ h) fun d hd => ?_
  have := (List.mem_filter.1 hd).2
  simpa using this

/-- What a memory lists after writing a byte string at offset 0. -/
theorem Memory.mem_setPrefix (m : Memory) (bs : List Byte) (c : Host.Cell) (h : c ∈ Memory.setPrefix m bs) :
    c.1 < bs.length ∨ c ∈ m := by
  rcases List.mem_append.1 h with h | h
  · left; have := Memory.mem_cells 0 bs c h; omega
  · right; exact (List.mem_filter.1 h).1

/-! ### The state's reads and writes -/

/-- Reading a byte after replacing a memory. -/
theorem State.readByte_setMem (s : State) (sp sp' : Space) (m : Memory) (a : Nat) :
    (s.setMem sp m).readByte sp' a = if sp' = sp then (Memory.get? m a).getD (s.unwritten sp' a) else s.readByte sp' a := by
  cases sp <;> cases sp' <;> rfl

/-- Reading a byte after writing one. -/
theorem State.readByte_writeByte (s : State) (sp sp' : Space) (a x : Nat) (v : Byte) :
    (s.writeByte sp a v).readByte sp' x = if sp' = sp ∧ x = a then v else s.readByte sp' x := by
  rw [State.writeByte, State.readByte_setMem]
  by_cases h : sp' = sp
  · subst h
    rw [if_pos rfl, Memory.get?_set]
    by_cases hx : x = a
    · rw [if_pos hx, if_pos ⟨rfl, hx⟩]; rfl
    · rw [if_neg hx, if_neg (fun h => hx h.2)]; rfl
  · rw [if_neg h, if_neg (fun hh => h hh.1)]

/-- A memory write changes one memory and nothing else. -/
theorem State.memWrite_eq_setMem (s : State) (sp : Space) (off : Nat) (v : Word) (n : Nat) :
    s.memWrite sp off v n = s.setMem sp ((s.memWrite sp off v n).mem sp) := by
  induction n with
  | zero => cases sp <;> rfl
  | succ n ih =>
    rw [State.memWrite, State.writeByte]
    generalize hm : Memory.set _ _ _ = m
    rw [ih]
    cases sp <;> rfl

/-- Reading a byte after a memory write: byte `v[8k+7:8k]` at `off + k`, the old byte elsewhere (20_memory.md R65). -/
theorem State.readByte_memWrite (s : State) (sp sp' : Space) (off x n : Nat) (v : Word) :
    (s.memWrite sp off v n).readByte sp' x =
      if sp' = sp ∧ off ≤ x ∧ x < off + n then byteOf v (x - off) else s.readByte sp' x := by
  induction n with
  | zero => rw [State.memWrite, if_neg (by omega)]
  | succ n ih =>
    rw [State.memWrite, State.readByte_writeByte, ih]
    by_cases h : sp' = sp
    · by_cases hx : x = off + n
      · rw [if_pos ⟨h, hx⟩, if_pos ⟨h, by omega, by omega⟩, hx, Nat.add_sub_cancel_left]
      · rw [if_neg (fun hh => hx hh.2)]
        by_cases hr : off ≤ x ∧ x < off + n
        · rw [if_pos ⟨h, hr⟩, if_pos ⟨h, hr.1, by omega⟩]
        · rw [if_neg (fun hh => hr hh.2), if_neg (fun hh => hr ⟨hh.2.1, by omega⟩)]
    · rw [if_neg (fun hh => h hh.1), if_neg (fun hh => h hh.1), if_neg (fun hh => h hh.1)]

/-- A memory write keeps the canonical form. -/
theorem State.wf_memWrite (s : State) (sp sp' : Space) (off n : Nat) (v : Word) (h : Memory.wf (s.mem sp') = true) :
    Memory.wf ((s.memWrite sp off v n).mem sp') = true := by
  induction n with
  | zero => exact h
  | succ n ih =>
    rw [State.memWrite, State.writeByte]
    by_cases he : sp' = sp
    · subst he; rw [State.setMem_mem_same]; exact Memory.wf_set _ _ _ ih
    · rw [State.setMem_mem_ne _ _ _ _ he]; exact ih

/-- What a memory lists after a memory write. -/
theorem State.mem_memWrite (s : State) (sp sp' : Space) (off n : Nat) (v : Word) (c : Host.Cell)
    (h : c ∈ (s.memWrite sp off v n).mem sp') : (sp' = sp ∧ off ≤ c.1 ∧ c.1 < off + n) ∨ c ∈ s.mem sp' := by
  induction n with
  | zero => exact .inr h
  | succ n ih =>
    rw [State.memWrite, State.writeByte] at h
    by_cases he : sp' = sp
    · subst he
      rw [State.setMem_mem_same] at h
      rcases Memory.mem_set _ _ _ _ h with h | h
      · left; rw [h]; exact ⟨rfl, by show off ≤ off + n; omega, by show off + n < off + (n + 1); omega⟩
      · rcases ih h with ⟨h1, h2, h3⟩ | h
        · exact .inl ⟨h1, h2, by omega⟩
        · exact .inr h
    · rw [State.setMem_mem_ne _ _ _ _ he] at h
      rcases ih h with ⟨h1, h2, h3⟩ | h
      · exact absurd h1 he
      · exact .inr h

/-- The reset state's memories are in canonical form, whatever the configuration. -/
theorem State.reset_memories_wf (cfg : Config) :
    Memory.wf (State.resetWith cfg).inMem = true ∧ Memory.wf (State.resetWith cfg).outMem = true := ⟨rfl, rfl⟩

end Sys2Proof.Machine
end

