-- ==== Sys2Proof/Laws/Trig.lean ====
section
/-! SUPPORT. The enclosures of Machine/Trig.lean are sound, and `floorForm` is the floor of the real number. -/

namespace Sys2Proof.Machine

/-- The partial sums, as real numbers. -/
theorem arctanInv_cast (k n : Nat) : ((arctanInv k n : Rat) : ℝ) =
    ∑ j ∈ Finset.range n, (-1 : ℝ) ^ j * ((k : ℝ)⁻¹) ^ (2 * j + 1) / ((2 * j + 1 : ℕ) : ℝ) := by
  induction n with
  | zero => simp [arctanInv]
  | succ n ih =>
    rw [arctanInv, Finset.sum_range_succ, Rat.cast_add, ih]
    congr 1
    have : ((if n % 2 = 0 then (1 : ℚ) else -1) : ℚ) = (-1) ^ n := by
      rcases Nat.even_or_odd n with h | h
      · rw [if_pos (Nat.even_iff.1 h), h.neg_one_pow]
      · rw [if_neg (by rw [Nat.odd_iff.1 h]; decide), h.neg_one_pow]
    rw [this]
    push_cast
    rw [inv_pow, div_eq_mul_inv, div_eq_mul_inv, mul_inv]
    ring

/-- The error of a partial sum, by the geometric series. -/
theorem arctanInv_error (k n : Nat) (hk : 5 ≤ k) :
    |Real.arctan ((k : ℝ)⁻¹) - ((arctanInv k n : Rat) : ℝ)| ≤ (25 / 24) * ((k : ℝ)⁻¹) ^ (2 * n + 1) := by
  set x : ℝ := (k : ℝ)⁻¹ with hx
  have hk0 : (5 : ℝ) ≤ k := by exact_mod_cast hk
  have hx0 : 0 < x := by positivity
  have hx5 : x ≤ 1 / 5 := by rw [hx, ← one_div]; exact one_div_le_one_div_of_le (by norm_num) hk0
  have hs := Real.hasSum_arctan (x := x) (by rw [Real.norm_eq_abs, abs_of_pos hx0]; linarith)
  have ht := (hasSum_nat_add_iff' n).2 hs
  rw [arctanInv_cast, ← ht.tsum_eq]
  have hg : Summable fun j : ℕ => x ^ (2 * n + 1) * (x ^ 2) ^ j :=
    (summable_geometric_of_lt_one (by positivity) (by nlinarith)).mul_left _
  have hle : ∀ j : ℕ, ‖(-1 : ℝ) ^ (j + n) * x ^ (2 * (j + n) + 1) / ((2 * (j + n) + 1 : ℕ) : ℝ)‖ ≤ x ^ (2 * n + 1) * (x ^ 2) ^ j := by
    intro j
    rw [norm_div, norm_mul, norm_pow, norm_neg, norm_one, one_pow, one_mul, Real.norm_eq_abs, Real.norm_eq_abs,
      abs_of_pos (by positivity), abs_of_pos (by positivity)]
    have e : x ^ (2 * (j + n) + 1) = x ^ (2 * n + 1) * (x ^ 2) ^ j := by rw [← pow_mul, ← pow_add]; ring_nf
    rw [e]
    refine div_le_self (by positivity) ?_
    exact_mod_cast Nat.le_add_left 1 _
  rw [← Real.norm_eq_abs]
  refine (tsum_of_norm_bounded hg.hasSum hle).trans ?_
  rw [tsum_mul_left, tsum_geometric_of_lt_one (by positivity) (by nlinarith), mul_comm]
  refine mul_le_mul_of_nonneg_right ?_ (by positivity)
  rw [inv_le_comm₀ (by nlinarith) (by norm_num)]
  nlinarith

/-- Machin's formula with the error of both series. -/
theorem piApprox_error (n : Nat) : |Real.pi - ((piApprox n : Rat) : ℝ)| ≤ 4 / 25 ^ n := by
  have h5 := arctanInv_error 5 n (by norm_num)
  have h2 := arctanInv_error 239 n (by norm_num)
  have hp := Real.four_mul_arctan_inv_5_sub_arctan_inv_239
  push_cast at h5 h2
  have e5 : ((5 : ℝ)⁻¹) ^ (2 * n + 1) = 1 / 5 * (1 / 25 ^ n) := by
    rw [pow_succ, pow_mul, inv_pow, inv_pow]; norm_num; ring
  have e2 : ((239 : ℝ)⁻¹) ^ (2 * n + 1) ≤ 1 / 239 * (1 / 25 ^ n) := by
    rw [pow_succ, pow_mul, inv_pow, mul_comm, inv_pow, ← one_div, ← one_div]
    refine mul_le_mul_of_nonneg_left ?_ (by norm_num)
    exact one_div_le_one_div_of_le (by positivity) (pow_le_pow_left₀ (by norm_num) (by norm_num) _)
  rw [e5] at h5
  have hd : (0 : ℝ) < 1 / 25 ^ n := by positivity
  rw [piApprox]; push_cast
  rw [abs_le] at *
  rw [show (4 : ℝ) / 25 ^ n = 4 * (1 / 25 ^ n) by ring]
  constructor <;> nlinarith

/-- Powers of a root of unity lie on the unit circle. -/
theorem norm_one_of_prim {n : ℕ} (hn : 0 < n) {z : ℂ} (h : z ^ n = 1) (k : ℕ) : ‖z ^ k‖ = 1 := by
  have h1 : ‖z‖ = 1 := by
    have := congrArg norm h
    rw [norm_pow, norm_one] at this
    exact (pow_eq_one_iff_of_nonneg (norm_nonneg _) hn.ne').1 this
  rw [norm_pow, h1, one_pow]

/-- The gap in a cyclotomic field: a nonzero `E + 2F·cos + 2G·sin` at a rational angle is an algebraic integer whose norm is a
nonzero integer and whose conjugates are at most M, so it is not small. -/
theorem trig_gap_in (K : Type) [Field K] [Algebra ℚ K] (n : ℕ) [NeZero n] [IsCyclotomicExtension {n} ℚ K] (a b : ℕ) (hn : n = 4 * b) (hb : 0 < b) (hab : a ≤ b) (E F G : ℤ) (M : ℕ)
    (hM1 : 1 ≤ M) (hM : |E| + 2 * |F| + 2 * |G| ≤ (M : ℤ))
    (hy : (E : ℝ) + 2 * F * Real.cos (2 * Real.pi * (a / b)) + 2 * G * Real.sin (2 * Real.pi * (a / b)) ≠ 0) :
    1 ≤ |(E : ℝ) + 2 * F * Real.cos (2 * Real.pi * (a / b)) + 2 * G * Real.sin (2 * Real.pi * (a / b))| * (M : ℝ) ^ n := by
  have hn0 : 0 < n := by omega
  have : FiniteDimensional ℚ K := IsCyclotomicExtension.finiteDimensional {n} ℚ K
  have hζ : IsPrimitiveRoot (IsCyclotomicExtension.zeta n ℚ K) n := IsCyclotomicExtension.zeta_spec n ℚ K
  set ζ := IsCyclotomicExtension.zeta n ℚ K
  have hirr : Irreducible (Polynomial.cyclotomic n ℚ) := Polynomial.cyclotomic.irreducible_rat hn0
  let x : K := (E : K) + F * (ζ ^ (4 * a) + ζ ^ (4 * (b - a))) + G * (ζ ^ (3 * b) * ζ ^ (4 * a) + ζ ^ b * ζ ^ (4 * (b - a)))
  have hσx : ∀ σ : K →ₐ[ℚ] ℂ, σ x = (E : ℂ) + F * (σ ζ ^ (4 * a) + σ ζ ^ (4 * (b - a))) + G * (σ ζ ^ (3 * b) * σ ζ ^ (4 * a) + σ ζ ^ b * σ ζ ^ (4 * (b - a))) := by
    intro σ; simp only [x, map_add, map_mul, map_pow, map_intCast]
  have hζi : IsIntegral ℤ ζ := hζ.isIntegral hn0
  have hint : ∀ m : ℤ, IsIntegral ℤ (m : K) := fun m => by
    simpa using (isIntegral_algebraMap (R := ℤ) (A := K) (x := m))
  have hxi : IsIntegral ℤ x := by
    refine ((hint E).add ((hint F).mul ((hζi.pow _).add (hζi.pow _)))).add ((hint G).mul ?_)
    exact ((hζi.pow _).mul (hζi.pow _)).add ((hζi.pow _).mul (hζi.pow _))
  -- the embedding that sends ζ to exp (2πi/n)
  have hη : IsPrimitiveRoot (Complex.exp (2 * Real.pi * Complex.I / n)) n := Complex.isPrimitiveRoot_exp n hn0.ne'
  obtain ⟨σ0, hσ0⟩ : ∃ σ0 : K →ₐ[ℚ] ℂ, σ0 ζ = Complex.exp (2 * Real.pi * Complex.I / n) := by
    refine ⟨(hζ.embeddingsEquivPrimitiveRoots ℂ hirr).symm ⟨_, (mem_primitiveRoots hn0).2 hη⟩, ?_⟩
    have := hζ.embeddingsEquivPrimitiveRoots_apply_coe ℂ hirr ((hζ.embeddingsEquivPrimitiveRoots ℂ hirr).symm ⟨_, (mem_primitiveRoots hn0).2 hη⟩)
    simpa using this.symm
  have hy0 : σ0 x = ((((E : ℝ) + 2 * F * Real.cos (2 * Real.pi * (a / b)) + 2 * G * Real.sin (2 * Real.pi * (a / b)) : ℝ)) : ℂ) := by
    have e1 : ∀ k : ℕ, Complex.exp (2 * Real.pi * Complex.I / n) ^ k = Complex.exp (k * (2 * Real.pi * Complex.I / n)) := fun k => by
      rw [← Complex.exp_nat_mul]
    have hbC : (b : ℂ) ≠ 0 := by exact_mod_cast hb.ne'
    have ez : Complex.exp (2 * Real.pi * Complex.I / n) ^ (4 * a) = Complex.exp ((2 * Real.pi * (a / b) : ℂ) * Complex.I) := by
      rw [e1]; congr 1; rw [hn]; push_cast; field_simp
    have ezi : Complex.exp (2 * Real.pi * Complex.I / n) ^ (4 * (b - a)) = Complex.exp (-(2 * Real.pi * (a / b) : ℂ) * Complex.I) := by
      rw [e1]
      have : ((4 * (b - a) : ℕ) : ℂ) * (2 * Real.pi * Complex.I / n) = -(2 * Real.pi * (a / b) : ℂ) * Complex.I + 2 * Real.pi * Complex.I := by
        rw [hn]; push_cast [Nat.cast_sub hab]; field_simp; ring
      rw [this, Complex.exp_add, Complex.exp_two_pi_mul_I, mul_one]
    have ei : Complex.exp (2 * Real.pi * Complex.I / n) ^ b = Complex.I := by
      rw [e1]
      have : ((b : ℕ) : ℂ) * (2 * Real.pi * Complex.I / n) = Real.pi / 2 * Complex.I := by
        rw [hn]; push_cast; field_simp; ring
      rw [this, Complex.exp_pi_div_two_mul_I]
    have ei3 : Complex.exp (2 * Real.pi * Complex.I / n) ^ (3 * b) = -Complex.I := by
      rw [mul_comm 3 b, pow_mul, ei]; simp [pow_succ]
    rw [hσx, hσ0, ez, ezi, ei, ei3]
    push_cast
    rw [Complex.cos, Complex.sin]
    ring
  have hx0 : x ≠ 0 := by
    intro h
    rw [h, map_zero] at hy0
    exact hy (by exact_mod_cast hy0.symm)
  obtain ⟨N, hN⟩ : ∃ N : ℤ, (N : ℚ) = Algebra.norm ℚ x := by
    have := Algebra.isIntegral_norm ℚ hxi
    exact IsIntegrallyClosed.isIntegral_iff.1 this
  have hN0 : N ≠ 0 := by
    intro h
    rw [h] at hN
    refine hx0 ((Algebra.norm_eq_zero_iff (R := ℚ)).1 ?_)
    rw [← hN]; simp
  have hprod : ((N : ℚ) : ℂ) = ∏ σ : K →ₐ[ℚ] ℂ, σ x := by
    rw [hN]; exact Algebra.norm_eq_prod_embeddings ℚ ℂ x
  have hMR : |(E : ℝ)| + 2 * |(F : ℝ)| + 2 * |(G : ℝ)| ≤ M := by exact_mod_cast hM
  have hbound : ∀ σ : K →ₐ[ℚ] ℂ, ‖σ x‖ ≤ M := by
    intro σ
    have hz : σ ζ ^ n = 1 := by rw [← map_pow, hζ.pow_eq_one, map_one]
    have h1 := norm_one_of_prim hn0 hz
    rw [hσx]
    refine le_trans ?_ hMR
    refine (norm_add₃_le).trans ?_
    have t1 : ‖(E : ℂ)‖ = |(E : ℝ)| := by simp
    have t2 : ‖(F : ℂ) * (σ ζ ^ (4 * a) + σ ζ ^ (4 * (b - a)))‖ ≤ 2 * |(F : ℝ)| := by
      rw [norm_mul]
      have : ‖σ ζ ^ (4 * a) + σ ζ ^ (4 * (b - a))‖ ≤ 2 := (norm_add_le _ _).trans (by rw [h1, h1]; norm_num)
      have e : ‖(F : ℂ)‖ = |(F : ℝ)| := by simp
      rw [e]; nlinarith [abs_nonneg (F : ℝ)]
    have t3 : ‖(G : ℂ) * (σ ζ ^ (3 * b) * σ ζ ^ (4 * a) + σ ζ ^ b * σ ζ ^ (4 * (b - a)))‖ ≤ 2 * |(G : ℝ)| := by
      rw [norm_mul]
      have : ‖σ ζ ^ (3 * b) * σ ζ ^ (4 * a) + σ ζ ^ b * σ ζ ^ (4 * (b - a))‖ ≤ 2 := (norm_add_le _ _).trans (by
        rw [norm_mul, norm_mul, h1, h1, h1, h1]; norm_num)
      have e : ‖(G : ℂ)‖ = |(G : ℝ)| := by simp
      rw [e]; nlinarith [abs_nonneg (G : ℝ)]
    linarith [t1.le]
  have hcard : Fintype.card (K →ₐ[ℚ] ℂ) ≤ n := by
    rw [Fintype.card_congr (hζ.embeddingsEquivPrimitiveRoots ℂ hirr), Fintype.card_coe, hη.card_primitiveRoots]
    exact Nat.totient_le n
  have hN1 : (1 : ℝ) ≤ ‖((N : ℚ) : ℂ)‖ := by
    have : (1 : ℤ) ≤ |N| := Int.one_le_abs hN0
    have h2 : ‖((N : ℚ) : ℂ)‖ = ((|N| : ℤ) : ℝ) := by simp
    rw [h2]; exact_mod_cast this
  rw [hprod, norm_prod] at hN1
  classical
  rw [← Finset.mul_prod_erase Finset.univ _ (Finset.mem_univ σ0), hy0, Complex.norm_real, Real.norm_eq_abs] at hN1
  refine hN1.trans (mul_le_mul_of_nonneg_left ?_ (abs_nonneg _))
  calc ∏ σ ∈ Finset.univ.erase σ0, ‖σ x‖ ≤ ∏ σ ∈ Finset.univ.erase σ0, (M : ℝ) :=
        Finset.prod_le_prod (fun σ _ => norm_nonneg _) (fun σ _ => hbound σ)
    _ = (M : ℝ) ^ (Finset.univ.erase σ0).card := by rw [Finset.prod_const]
    _ ≤ (M : ℝ) ^ n := by
        refine pow_le_pow_right₀ (by exact_mod_cast hM1) ?_
        exact (Finset.card_le_card (Finset.erase_subset _ _)).trans (by simpa using hcard)

/-- The gap, in the cyclotomic field of the angle. -/
theorem trig_gap (a b : ℕ) (hb : 0 < b) (hab : a ≤ b) (E F G : ℤ) (M : ℕ)
    (hM1 : 1 ≤ M) (hM : |E| + 2 * |F| + 2 * |G| ≤ (M : ℤ))
    (hy : (E : ℝ) + 2 * F * Real.cos (2 * Real.pi * (a / b)) + 2 * G * Real.sin (2 * Real.pi * (a / b)) ≠ 0) :
    1 ≤ |(E : ℝ) + 2 * F * Real.cos (2 * Real.pi * (a / b)) + 2 * G * Real.sin (2 * Real.pi * (a / b))| * (M : ℝ) ^ (4 * b) := by
  have : NeZero (4 * b) := ⟨by omega⟩
  have : NeZero ((4 * b : ℕ) : ℚ) := ⟨by exact_mod_cast (by omega : 4 * b ≠ 0)⟩
  exact @trig_gap_in (CyclotomicField (4 * b) ℚ) _ (CyclotomicField.algebra _ _) (4 * b) _
    (CyclotomicField.isCyclotomicExtension (4 * b) ℚ) a b rfl hb hab E F G M hM1 hM hy

theorem turnDen_pos (θ : Rat) : 0 < turnDen θ := (θ / 360).den_pos

theorem turnNum_lt (θ : Rat) : turnNum θ < turnDen θ := by
  have h : 0 < ((θ / 360).den : ℤ) := by exact_mod_cast (θ / 360).den_pos
  have h1 := Int.emod_lt_of_pos (θ / 360).num h
  have h2 := Int.emod_nonneg (θ / 360).num h.ne'
  unfold turnNum turnDen
  omega

/-- Reducing an angle to one turn adds whole turns. -/
theorem turn_spec (θ : Rat) : ∃ z : ℤ, ((θ : ℝ) * Real.pi / 180) =
    2 * Real.pi * ((turnNum θ : ℝ) / (turnDen θ : ℝ)) + z * (2 * Real.pi) := by
  set t : ℚ := θ / 360 with ht
  have hd : 0 < (t.den : ℤ) := by exact_mod_cast t.den_pos
  have hdR : (t.den : ℝ) ≠ 0 := by exact_mod_cast t.den_pos.ne'
  refine ⟨t.num / t.den, ?_⟩
  have hnum : ((turnNum θ : ℕ) : ℤ) = t.num % t.den := by
    unfold turnNum; exact Int.toNat_of_nonneg (Int.emod_nonneg _ hd.ne')
  have hR : (turnNum θ : ℝ) = ((t.num % t.den : ℤ) : ℝ) := by rw [← hnum]; simp
  have hdiv : (t.num : ℝ) = ((t.num % t.den : ℤ) : ℝ) + (t.den : ℝ) * ((t.num / t.den : ℤ) : ℝ) := by
    exact_mod_cast (Int.emod_add_mul_ediv t.num t.den).symm
  have hθ : (θ : ℝ) = 360 * ((t.num : ℝ) / (t.den : ℝ)) := by
    have h1 : θ = 360 * t := by rw [ht]; ring
    have h2 : (t : ℝ) = (t.num : ℝ) / (t.den : ℝ) := by rw [Rat.cast_def]
    rw [h1]; push_cast; rw [h2]
  have hden : (turnDen θ : ℝ) = (t.den : ℝ) := rfl
  rw [hθ, hR, hden, hdiv]
  field_simp
  ring

/-- `expTail` is the partial sum of the exponential series. -/
theorem expTail_sum (x : Rat) (n k : Nat) :
    (((expTail x n k).1 : ℝ) : ℂ) + (((expTail x n k).2 : ℝ) : ℂ) * Complex.I =
      ∑ m ∈ Finset.range n, (((x : ℝ) : ℂ) * Complex.I) ^ m * (k.factorial : ℂ) / ((k + m).factorial : ℂ) := by
  induction n generalizing k with
  | zero => simp [expTail]
  | succ n ih =>
    rw [Finset.sum_range_succ']
    have hk : ((k.factorial : ℂ)) ≠ 0 := by exact_mod_cast k.factorial_ne_zero
    have hk1 : ((k : ℂ) + 1) ≠ 0 := by exact_mod_cast (Nat.succ_ne_zero k)
    have step : ∑ m ∈ Finset.range n, (((x : ℝ) : ℂ) * Complex.I) ^ (m + 1) * (k.factorial : ℂ) / ((k + (m + 1)).factorial : ℂ)
        = (((x : ℝ) : ℂ) * Complex.I / ((k : ℂ) + 1)) * ∑ m ∈ Finset.range n, (((x : ℝ) : ℂ) * Complex.I) ^ m * ((k + 1).factorial : ℂ) / ((k + 1 + m).factorial : ℂ) := by
      rw [Finset.mul_sum]
      refine Finset.sum_congr rfl fun m _ => ?_
      rw [show k + (m + 1) = k + 1 + m by omega, Nat.factorial_succ k]
      push_cast
      have : ((k + 1 + m).factorial : ℂ) ≠ 0 := by exact_mod_cast (Nat.factorial_ne_zero _)
      field_simp
      ring
    rw [step, ← ih (k + 1)]
    simp only [expTail, pow_zero, Nat.add_zero, one_mul, div_self hk]
    push_cast
    linear_combination (-(x : ℂ) / (k + 1) * ((expTail x n (k + 1)).2 : ℂ)) * Complex.I_sq

/-- The remainder of the exponential series at |x| ≤ 7. -/
theorem seven_pow_factorial (n : Nat) : (7 : ℝ) ^ (n + 14) / ((n + 14).factorial : ℝ) ≤ 8 / 2 ^ n := by
  induction n with
  | zero => norm_num [Nat.factorial]
  | succ n ih =>
    have h2 : (0 : ℝ) < ((n + 14).factorial : ℝ) := by exact_mod_cast Nat.factorial_pos _
    have e : (7 : ℝ) ^ (n + 1 + 14) / ((n + 1 + 14).factorial : ℝ) =
        (7 ^ (n + 14) / ((n + 14).factorial : ℝ)) * (7 / (n + 15)) := by
      rw [show n + 1 + 14 = (n + 14) + 1 by omega, pow_succ, Nat.factorial_succ]
      push_cast
      field_simp
      ring
    have h3 : (7 : ℝ) / (n + 15) ≤ 1 / 2 := by
      rw [div_le_div_iff₀ (by positivity) (by norm_num)]; nlinarith [(Nat.cast_nonneg n : (0 : ℝ) ≤ n)]
    rw [e, show (8 : ℝ) / 2 ^ (n + 1) = 8 / 2 ^ n * (1 / 2) by rw [pow_succ]; field_simp]
    exact mul_le_mul ih h3 (by positivity) (by positivity)

/-- The error of the angle in radians. -/
theorem arcApprox_error (θ : Rat) (p : Nat) :
    |2 * Real.pi * ((turnNum θ : ℝ) / (turnDen θ : ℝ)) - ((arcApprox θ p : Rat) : ℝ)| ≤ 3 / 8 / 2 ^ p := by
  set r : ℚ := (turnNum θ : Rat) / (turnDen θ : Rat) with hr
  have hdpos : (0 : ℝ) < turnDen θ := by exact_mod_cast turnDen_pos θ
  have hrR : (r : ℝ) = (turnNum θ : ℝ) / (turnDen θ : ℝ) := by rw [hr]; push_cast; rfl
  have hr0 : (0 : ℝ) ≤ r := by rw [hrR]; positivity
  have hr1 : (r : ℝ) ≤ 1 := by
    rw [hrR, div_le_one hdpos]; exact_mod_cast (turnNum_lt θ).le
  set P : ℚ := piApprox (p / 4 + 4)
  have hP := piApprox_error (p / 4 + 4)
  have hP' : |Real.pi - (P : ℝ)| ≤ 1 / 16 / 2 ^ p := by
    refine hP.trans ?_
    have h1 : (2 : ℝ) ^ (p + 13) ≤ 25 ^ (p / 4 + 4) := by
      calc (2 : ℝ) ^ (p + 13) ≤ 2 ^ (4 * (p / 4 + 4)) := pow_le_pow_right₀ (by norm_num) (by omega)
        _ = 16 ^ (p / 4 + 4) := by rw [pow_mul]; norm_num
        _ ≤ 25 ^ (p / 4 + 4) := pow_le_pow_left₀ (by norm_num) (by norm_num) _
    rw [div_div, div_le_div_iff₀ (by positivity) (by positivity)]
    rw [pow_add] at h1
    nlinarith [show (0 : ℝ) < 2 ^ p by positivity]
  set Q : ℕ := 2 ^ (p + 2) with hQ
  have hQ0 : (0 : ℝ) < (Q : ℝ) := by rw [hQ]; positivity
  set y : ℚ := 2 * r * P * (Q : Rat) with hy
  have hfl : |(y : ℝ) - ((⌊y⌋ : ℤ) : ℝ)| ≤ 1 := by
    have h1 : ((⌊y⌋ : ℤ) : ℝ) ≤ y := by exact_mod_cast Int.floor_le y
    have h2 : (y : ℝ) < ((⌊y⌋ : ℤ) : ℝ) + 1 := by exact_mod_cast Int.lt_floor_add_one y
    rw [abs_le]; constructor <;> linarith
  have harc : ((arcApprox θ p : Rat) : ℝ) = ((⌊y⌋ : ℤ) : ℝ) / (Q : ℝ) := by
    unfold arcApprox
    rw [Rat.cast_div, Rat.cast_intCast, Rat.cast_natCast]
  have hyR : (y : ℝ) = 2 * r * P * Q := by rw [hy]; push_cast; ring
  rw [harc, ← hrR]
  have e : 2 * Real.pi * (r : ℝ) - ((⌊y⌋ : ℤ) : ℝ) / Q = 2 * r * (Real.pi - P) + ((y : ℝ) - ((⌊y⌋ : ℤ) : ℝ)) / Q := by
    rw [hyR]; field_simp; ring
  rw [e]
  refine (abs_add_le _ _).trans ?_
  have b1 : |2 * (r : ℝ) * (Real.pi - P)| ≤ 2 * (1 / 16 / 2 ^ p) := by
    rw [abs_mul, abs_of_nonneg (by positivity)]
    exact mul_le_mul (by linarith) hP' (abs_nonneg _) (by norm_num)
  have b2 : |((y : ℝ) - ((⌊y⌋ : ℤ) : ℝ)) / Q| ≤ 1 / 4 / 2 ^ p := by
    rw [abs_div, abs_of_pos hQ0, div_le_iff₀ hQ0]
    have : (Q : ℝ) = 4 * 2 ^ p := by rw [hQ]; push_cast; rw [pow_add]; ring
    rw [this]
    have h0 : (2 : ℝ) ^ p ≠ 0 := by positivity
    field_simp
    linarith
  have : (3 : ℝ) / 8 / 2 ^ p = 2 * (1 / 16 / 2 ^ p) + 1 / 4 / 2 ^ p := by ring
  linarith

/-- `unitPoint` is within `1/2^p` of cosine and sine. -/
theorem unitPoint_error (θ : Rat) (p : Nat) :
    |Real.cos ((θ : ℝ) * Real.pi / 180) - ((unitPoint θ p).1 : ℝ)| ≤ 1 / 2 ^ p ∧
    |Real.sin ((θ : ℝ) * Real.pi / 180) - ((unitPoint θ p).2 : ℝ)| ≤ 1 / 2 ^ p := by
  obtain ⟨z, hz⟩ := turn_spec θ
  set x : ℝ := 2 * Real.pi * ((turnNum θ : ℝ) / (turnDen θ : ℝ)) with hx
  set w : ℝ := ((arcApprox θ p : Rat) : ℝ) with hw
  have herr : |x - w| ≤ 3 / 8 / 2 ^ p := arcApprox_error θ p
  have hc : Real.cos ((θ : ℝ) * Real.pi / 180) = Real.cos x := by rw [hz, Real.cos_add_int_mul_two_pi]
  have hs : Real.sin ((θ : ℝ) * Real.pi / 180) = Real.sin x := by rw [hz, Real.sin_add_int_mul_two_pi]
  have hp1 : (1 : ℝ) ≤ 2 ^ p := one_le_pow₀ (by norm_num)
  have hdpos : (0 : ℝ) < turnDen θ := by exact_mod_cast turnDen_pos θ
  have hx0 : 0 ≤ x := by rw [hx]; have := Real.pi_pos; positivity
  have hx1 : x ≤ 2 * Real.pi := by
    rw [hx]
    have : (turnNum θ : ℝ) / turnDen θ ≤ 1 := by rw [div_le_one hdpos]; exact_mod_cast (turnNum_lt θ).le
    nlinarith [Real.pi_pos]
  have hw7 : |w| ≤ 7 := by
    have h1 : |x - w| ≤ 3 / 8 := herr.trans (div_le_self (by norm_num) hp1)
    have h2 := Real.pi_lt_d2
    rw [abs_le] at *
    constructor <;> linarith
  have hnorm : ‖((w : ℝ) : ℂ) * Complex.I‖ = |w| := by simp
  have hexp := Complex.exp_bound' (x := (w : ℂ) * Complex.I) (n := p + 22) (by
    rw [hnorm, div_le_iff₀ (by positivity)]
    push_cast
    nlinarith [(Nat.cast_nonneg p : (0 : ℝ) ≤ p)])
  have hsum : ∑ m ∈ Finset.range (p + 22), ((w : ℂ) * Complex.I) ^ m / (m.factorial : ℂ) =
      (((unitPoint θ p).1 : ℝ) : ℂ) + (((unitPoint θ p).2 : ℝ) : ℂ) * Complex.I := by
    have := expTail_sum (arcApprox θ p) (p + 22) 0
    simp only [Nat.factorial_zero, Nat.cast_one, mul_one, zero_add] at this
    exact this.symm
  have htail : ‖((w : ℝ) : ℂ) * Complex.I‖ ^ (p + 22) / ((p + 22).factorial : ℝ) * 2 ≤ 1 / 16 / 2 ^ p := by
    rw [hnorm]
    have h1 : |w| ^ (p + 22) / ((p + 22).factorial : ℝ) ≤ 7 ^ (p + 22) / ((p + 22).factorial : ℝ) := by
      have : (0 : ℝ) < ((p + 22).factorial : ℝ) := by exact_mod_cast Nat.factorial_pos _
      exact (div_le_div_iff_of_pos_right this).2 (pow_le_pow_left₀ (abs_nonneg _) hw7 _)
    have h2 := seven_pow_factorial (p + 8)
    rw [show p + 8 + 14 = p + 22 by omega] at h2
    have h3 : (8 : ℝ) / 2 ^ (p + 8) = 1 / 32 / 2 ^ p := by rw [pow_add]; field_simp; norm_num
    have h4 : (1 : ℝ) / 16 / 2 ^ p = 1 / 32 / 2 ^ p * 2 := by ring
    rw [h4]; linarith
  have hT := hexp.trans htail
  rw [hsum] at hT
  have hE : Complex.exp ((w : ℂ) * Complex.I) = ((Real.cos w : ℝ) : ℂ) + ((Real.sin w : ℝ) : ℂ) * Complex.I := by
    rw [Complex.exp_mul_I]; push_cast; rfl
  rw [hE] at hT
  have hre : |Real.cos w - ((unitPoint θ p).1 : ℝ)| ≤ 1 / 16 / 2 ^ p := by
    refine le_trans ?_ hT
    refine le_trans (le_of_eq ?_) (Complex.abs_re_le_norm _)
    simp only [Complex.sub_re, Complex.add_re, Complex.mul_re, Complex.ofReal_re, Complex.ofReal_im, Complex.I_re, Complex.I_im, mul_zero, mul_one, sub_zero, add_zero]
  have him : |Real.sin w - ((unitPoint θ p).2 : ℝ)| ≤ 1 / 16 / 2 ^ p := by
    refine le_trans ?_ hT
    refine le_trans (le_of_eq ?_) (Complex.abs_im_le_norm _)
    simp only [Complex.sub_im, Complex.add_im, Complex.mul_im, Complex.ofReal_re, Complex.ofReal_im, Complex.I_re, Complex.I_im, mul_zero, mul_one, zero_add, add_zero]
  have hcl : |Real.cos x - Real.cos w| ≤ |x - w| := by
    have h := (LipschitzWith.of_dist_le' (K := 1) (f := Real.cos) (fun a b => by simpa [Real.dist_eq] using Real.abs_cos_sub_cos_le a b)).dist_le_mul x w
    simpa [Real.dist_eq] using h
  have hsl : |Real.sin x - Real.sin w| ≤ |x - w| := by
    have h := (LipschitzWith.of_dist_le' (K := 1) (f := Real.sin) (fun a b => by simpa [Real.dist_eq] using Real.abs_sin_sub_sin_le a b)).dist_le_mul x w
    simpa [Real.dist_eq] using h
  have h0 : (0 : ℝ) < 1 / 2 ^ p := by positivity
  have e1 : (3 : ℝ) / 8 / 2 ^ p = 3 / 8 * (1 / 2 ^ p) := by ring
  have e2 : (1 : ℝ) / 16 / 2 ^ p = 1 / 16 * (1 / 2 ^ p) := by ring
  rw [e1] at herr; rw [e2] at hre him
  rw [hc, hs]
  constructor
  · have : Real.cos x - ((unitPoint θ p).1 : ℝ) = (Real.cos x - Real.cos w) + (Real.cos w - ((unitPoint θ p).1 : ℝ)) := by ring
    rw [this]; refine (abs_add_le _ _).trans ?_; linarith
  · have : Real.sin x - ((unitPoint θ p).2 : ℝ) = (Real.sin x - Real.sin w) + (Real.sin w - ((unitPoint θ p).2 : ℝ)) := by ring
    rw [this]; refine (abs_add_le _ _).trans ?_; linarith

/-- The interval of `enclose` holds the real value; when it does not decide the floor, the value lies near its upper end. -/
theorem enclose_sound (A B D θ : Rat) (p : Nat) :
    (enclose A B D θ p).1 ≤ ⌊(A : ℝ) + B * Real.cos ((θ : ℝ) * Real.pi / 180) + D * Real.sin ((θ : ℝ) * Real.pi / 180)⌋ ∧
    ⌊(A : ℝ) + B * Real.cos ((θ : ℝ) * Real.pi / 180) + D * Real.sin ((θ : ℝ) * Real.pi / 180)⌋ ≤ (enclose A B D θ p).2 ∧
    ((enclose A B D θ p).1 ≠ (enclose A B D θ p).2 →
      |(A : ℝ) + B * Real.cos ((θ : ℝ) * Real.pi / 180) + D * Real.sin ((θ : ℝ) * Real.pi / 180) - ((enclose A B D θ p).2 : ℝ)|
        ≤ 2 * ((|(B : ℝ)| + |(D : ℝ)|) / 2 ^ p)) := by
  obtain ⟨hc, hs⟩ := unitPoint_error θ p
  set c := Real.cos ((θ : ℝ) * Real.pi / 180)
  set s := Real.sin ((θ : ℝ) * Real.pi / 180)
  set mid : ℚ := A + B * (unitPoint θ p).1 + D * (unitPoint θ p).2 with hmid
  set err : ℚ := (|B| + |D|) / ((2 ^ p : Nat) : Rat) with herr
  have h1 : (enclose A B D θ p).1 = ⌊mid - err⌋ := rfl
  have h2 : (enclose A B D θ p).2 = ⌊mid + err⌋ := rfl
  have hmidR : (mid : ℝ) = A + B * ((unitPoint θ p).1 : ℝ) + D * ((unitPoint θ p).2 : ℝ) := by rw [hmid]; push_cast; ring
  have herrR : (err : ℝ) = (|(B : ℝ)| + |(D : ℝ)|) / 2 ^ p := by rw [herr]; push_cast; ring
  have hdist : |(A + B * c + D * s) - (mid : ℝ)| ≤ err := by
    have e : (A + B * c + D * s) - (mid : ℝ) = B * (c - ((unitPoint θ p).1 : ℝ)) + D * (s - ((unitPoint θ p).2 : ℝ)) := by
      rw [hmidR]; ring
    rw [e, herrR]
    refine (abs_add_le _ _).trans ?_
    rw [abs_mul, abs_mul, add_div, div_eq_mul_one_div |(B : ℝ)|, div_eq_mul_one_div |(D : ℝ)|]
    exact add_le_add (mul_le_mul_of_nonneg_left hc (abs_nonneg _)) (mul_le_mul_of_nonneg_left hs (abs_nonneg _))
  rw [abs_le] at hdist
  have hlo : ((⌊mid - err⌋ : ℤ) : ℝ) ≤ mid - err := by exact_mod_cast Int.floor_le (mid - err)
  have hhi : ((⌊mid + err⌋ : ℤ) : ℝ) ≤ mid + err := by exact_mod_cast Int.floor_le (mid + err)
  have hhi' : (mid : ℝ) + err < ((⌊mid + err⌋ : ℤ) : ℝ) + 1 := by exact_mod_cast Int.lt_floor_add_one (mid + err)
  have hlo' : (mid : ℝ) - err < ((⌊mid - err⌋ : ℤ) : ℝ) + 1 := by exact_mod_cast Int.lt_floor_add_one (mid - err)
  rw [h1, h2]
  refine ⟨Int.le_floor.2 (by linarith), ?_, fun hne => ?_⟩
  · have : ((⌊(A + B * c + D * s : ℝ)⌋ : ℤ) : ℝ) < ((⌊mid + err⌋ : ℤ) : ℝ) + 1 := by
      have := Int.floor_le (A + B * c + D * s : ℝ); linarith
    have h3 : ⌊(A + B * c + D * s : ℝ)⌋ < ⌊mid + err⌋ + 1 := by exact_mod_cast this
    omega
  · have hlt : ⌊mid - err⌋ + 1 ≤ ⌊mid + err⌋ := by
      have : ⌊mid - err⌋ ≤ ⌊mid + err⌋ := by
        have h0 : (0 : ℚ) ≤ err := by rw [herr]; positivity
        exact Int.floor_le_floor (by linarith)
      omega
    have hltR : ((⌊mid - err⌋ : ℤ) : ℝ) + 1 ≤ ((⌊mid + err⌋ : ℤ) : ℝ) := by exact_mod_cast hlt
    rw [← herrR, abs_le]
    constructor <;> linarith

/-- Cosine and sine of an angle are those of its reduced turn. -/
theorem cos_sin_turn (θ : Rat) :
    Real.cos ((θ : ℝ) * Real.pi / 180) = Real.cos (2 * Real.pi * ((turnNum θ : ℝ) / (turnDen θ : ℝ))) ∧
    Real.sin ((θ : ℝ) * Real.pi / 180) = Real.sin (2 * Real.pi * ((turnNum θ : ℝ) / (turnDen θ : ℝ))) := by
  obtain ⟨z, hz⟩ := turn_spec θ
  rw [hz, Real.cos_add_int_mul_two_pi, Real.sin_add_int_mul_two_pi]
  exact ⟨rfl, rfl⟩

/-- A rational is at most its numerator. -/
theorem abs_le_natAbs (q : Rat) : |(q : ℝ)| ≤ (q.num.natAbs : ℝ) := by
  rw [Rat.cast_def, abs_div, Nat.cast_natAbs, Int.cast_abs]
  refine div_le_self (abs_nonneg _) ?_
  rw [Nat.abs_cast]
  exact_mod_cast q.den_pos

/-- A form that is near an integer but not equal to it is not too near. -/
theorem form_gap (A B D θ : Rat) (k : Int)
    (hne : (A : ℝ) + B * Real.cos ((θ : ℝ) * Real.pi / 180) + D * Real.sin ((θ : ℝ) * Real.pi / 180) ≠ (k : ℝ))
    (hnear : |(A : ℝ) + B * Real.cos ((θ : ℝ) * Real.pi / 180) + D * Real.sin ((θ : ℝ) * Real.pi / 180) - (k : ℝ)| ≤ 1) :
    1 ≤ 2 * ((A.den * B.den * D.den : ℕ) : ℝ) *
      |(A : ℝ) + B * Real.cos ((θ : ℝ) * Real.pi / 180) + D * Real.sin ((θ : ℝ) * Real.pi / 180) - (k : ℝ)| *
      (formBase A B D : ℝ) ^ (4 * turnDen θ) := by
  obtain ⟨ec, es⟩ := cos_sin_turn θ
  rw [ec, es] at hne hnear ⊢
  set c := Real.cos (2 * Real.pi * ((turnNum θ : ℝ) / (turnDen θ : ℝ))) with hcdef
  set s := Real.sin (2 * Real.pi * ((turnNum θ : ℝ) / (turnDen θ : ℝ))) with hsdef
  set d : ℕ := A.den * B.den * D.den with hd
  have hA : (A.den : ℝ) ≠ 0 := by exact_mod_cast A.den_pos.ne'
  have hB : (B.den : ℝ) ≠ 0 := by exact_mod_cast B.den_pos.ne'
  have hD : (D.den : ℝ) ≠ 0 := by exact_mod_cast D.den_pos.ne'
  have hd1 : (1 : ℝ) ≤ d := by
    have : 1 ≤ d := Nat.one_le_iff_ne_zero.2 (by simp [hd, A.den_pos.ne', B.den_pos.ne', D.den_pos.ne'])
    exact_mod_cast this
  let E : ℤ := 2 * (A.num * B.den * D.den - d * k)
  let F : ℤ := B.num * A.den * D.den
  let G : ℤ := D.num * A.den * B.den
  have hE : (E : ℝ) = 2 * d * (A - k) := by
    simp only [E, hd]; push_cast; rw [Rat.cast_def A]; field_simp
  have hF : (F : ℝ) = d * B := by
    simp only [F, hd]; push_cast; rw [Rat.cast_def B]; field_simp
  have hG : (G : ℝ) = d * D := by
    simp only [G, hd]; push_cast; rw [Rat.cast_def D]; field_simp
  have hy : (E : ℝ) + 2 * F * c + 2 * G * s = 2 * d * (A + B * c + D * s - k) := by
    rw [hE, hF, hG]; ring
  have hc1 : |c| ≤ 1 := Real.abs_cos_le_one _
  have hs1 : |s| ≤ 1 := Real.abs_sin_le_one _
  have hAk : |(A : ℝ) - k| ≤ |(B : ℝ)| + |(D : ℝ)| + 1 := by
    have e : (A : ℝ) - k = (A + B * c + D * s - k) + (-(B * c)) + (-(D * s)) := by ring
    rw [e]
    refine (abs_add_three _ _ _).trans ?_
    rw [abs_neg, abs_neg, abs_mul, abs_mul]
    nlinarith [abs_nonneg (B : ℝ), abs_nonneg (D : ℝ)]
  have hBn := abs_le_natAbs B
  have hDn := abs_le_natAbs D
  have hM : |E| + 2 * |F| + 2 * |G| ≤ ((formBase A B D : ℕ) : ℤ) := by
    have : |(E : ℝ)| + 2 * |(F : ℝ)| + 2 * |(G : ℝ)| ≤ (formBase A B D : ℝ) := by
      rw [hE, hF, hG, abs_mul, abs_mul, abs_mul, abs_mul, abs_of_nonneg (by linarith : (0 : ℝ) ≤ d), abs_two]
      have hMb : (formBase A B D : ℝ) = 2 * d * (2 * (B.num.natAbs : ℝ) + 2 * (D.num.natAbs : ℝ) + 1) := by
        unfold formBase; push_cast [hd]; ring
      rw [hMb]
      nlinarith
    exact_mod_cast this
  have hM1 : 1 ≤ formBase A B D := by
    unfold formBase
    have : 0 < A.den * B.den * D.den := Nat.mul_pos (Nat.mul_pos A.den_pos B.den_pos) D.den_pos
    exact Nat.mul_pos (by omega) (by omega)
  have hgap := trig_gap (turnNum θ) (turnDen θ) (turnDen_pos θ) (turnNum_lt θ).le E F G (formBase A B D) hM1 hM (by
    rw [← hcdef, ← hsdef, hy]
    exact mul_ne_zero (by linarith) (sub_ne_zero.2 hne))
  rw [← hcdef, ← hsdef, hy, abs_mul, abs_of_nonneg (by linarith : (0 : ℝ) ≤ 2 * d)] at hgap
  exact hgap

/-- Refinement with enough precision gives the floor. -/
theorem refine_exact (A B D θ : Rat) (f p : Nat) (h : formBits A B D θ ≤ p * 2 ^ f) :
    refine A B D θ f p = ⌊(A : ℝ) + B * Real.cos ((θ : ℝ) * Real.pi / 180) + D * Real.sin ((θ : ℝ) * Real.pi / 180)⌋ := by
  induction f generalizing p with
  | succ f ih =>
    obtain ⟨h1, h2, -⟩ := enclose_sound A B D θ p
    unfold refine
    by_cases he : (enclose A B D θ p).1 = (enclose A B D θ p).2
    · rw [if_pos he]; omega
    · rw [if_neg he]; exact ih (2 * p) (by rw [pow_succ] at h; linarith)
  | zero =>
    obtain ⟨h1, h2, h3⟩ := enclose_sound A B D θ p
    unfold refine
    by_cases he : (enclose A B D θ p).1 = (enclose A B D θ p).2
    · omega
    · have hclose := h3 he
      set v := (A : ℝ) + B * Real.cos ((θ : ℝ) * Real.pi / 180) + D * Real.sin ((θ : ℝ) * Real.pi / 180)
      set k := (enclose A B D θ p).2
      by_contra hcon
      have hne : v ≠ (k : ℝ) := by
        intro hv; apply hcon; rw [hv, Int.floor_intCast]
      set M := formBase A B D with hMdef
      have hMb : (M : ℝ) = 2 * ((A.den * B.den * D.den : ℕ) : ℝ) * (2 * (B.num.natAbs : ℝ) + 2 * (D.num.natAbs : ℝ) + 1) := by
        rw [hMdef]; unfold formBase; push_cast; ring
      set d : ℕ := A.den * B.den * D.den with hd
      have hd1 : (1 : ℝ) ≤ d := by
        have : 1 ≤ d := Nat.one_le_iff_ne_zero.2 (by simp [hd, A.den_pos.ne', B.den_pos.ne', D.den_pos.ne'])
        exact_mod_cast this
      have hBn := abs_le_natAbs B
      have hDn := abs_le_natAbs D
      have hBD : 2 * (d : ℝ) * (2 * (|(B : ℝ)| + |(D : ℝ)|)) < M := by rw [hMb]; nlinarith
      have hM1 : (1 : ℝ) ≤ M := by nlinarith [abs_nonneg (B : ℝ), abs_nonneg (D : ℝ)]
      have hpow : (M : ℝ) ^ (4 * turnDen θ + 1) ≤ 2 ^ p := by
        have hlog : M < 2 ^ (Nat.log2 M + 1) := Nat.lt_log2_self
        calc (M : ℝ) ^ (4 * turnDen θ + 1) ≤ ((2 : ℝ) ^ (Nat.log2 M + 1)) ^ (4 * turnDen θ + 1) :=
              pow_le_pow_left₀ (by linarith) (by exact_mod_cast hlog.le) _
          _ = 2 ^ formBits A B D θ := by rw [← pow_mul]; congr 1; unfold formBits; rw [mul_comm]
          _ ≤ 2 ^ p := pow_le_pow_right₀ (by norm_num) (by simpa using h)
      have hMp : (M : ℝ) ≤ 2 ^ p := by
        refine le_trans ?_ hpow
        rw [pow_succ]
        exact le_mul_of_one_le_left (by linarith) (one_le_pow₀ hM1)
      have h2p : (0 : ℝ) < 2 ^ p := by positivity
      have hnear : |v - (k : ℝ)| ≤ 1 := by
        refine hclose.trans ?_
        rw [mul_div_assoc', div_le_one h2p]
        nlinarith [abs_nonneg (B : ℝ), abs_nonneg (D : ℝ)]
      have hgap := form_gap A B D θ k hne hnear
      have hMk : (0 : ℝ) < (M : ℝ) ^ (4 * turnDen θ) := by positivity
      have : 2 * (d : ℝ) * |v - (k : ℝ)| * (M : ℝ) ^ (4 * turnDen θ) < 1 := by
        have a1 : 2 * (d : ℝ) * |v - (k : ℝ)| ≤ 2 * (d : ℝ) * (2 * (|(B : ℝ)| + |(D : ℝ)|)) / 2 ^ p := by
          rw [mul_div_assoc, mul_div_assoc]; exact mul_le_mul_of_nonneg_left hclose (by linarith)
        have a2 : 2 * (d : ℝ) * (2 * (|(B : ℝ)| + |(D : ℝ)|)) / 2 ^ p < M / 2 ^ p := (div_lt_div_iff_of_pos_right h2p).2 hBD
        calc 2 * (d : ℝ) * |v - (k : ℝ)| * (M : ℝ) ^ (4 * turnDen θ)
            < M / 2 ^ p * (M : ℝ) ^ (4 * turnDen θ) := mul_lt_mul_of_pos_right (a1.trans_lt a2) hMk
          _ = (M : ℝ) ^ (4 * turnDen θ + 1) / 2 ^ p := by rw [pow_succ]; ring
          _ ≤ 1 := (div_le_one h2p).2 hpow
      linarith

/-- `floorForm` is the floor of the real number, for every rational A, B, D and θ. -/
theorem floorForm_exact (A B D θ : Rat) :
    floorForm A B D θ = ⌊(A : ℝ) + B * Real.cos ((θ : ℝ) * Real.pi / 180) + D * Real.sin ((θ : ℝ) * Real.pi / 180)⌋ := by
  refine refine_exact A B D θ _ 32 ?_
  have h : formBits A B D θ < 2 ^ (Nat.log2 (formBits A B D θ) + 1) := Nat.lt_log2_self
  rw [pow_succ] at h
  omega
end Sys2Proof.Machine
end

