-- ==== Sys2Proof/Laws/Palette.lean ====
section
/-! SUPPORT. The palette function: one channel is the exact value of 41_palette.md R152, and the table is its entries. -/

namespace Sys2Proof.Machine

/-- A channel is `clamp8(rnd(255 · x))` of the real product x of a matrix row with (Y, C·cosd θ, C·sind θ)
(41_palette.md R152, R156, R157). -/
theorem channel_toNat (row : Vec3) (y c θ : Rat) :
    ((channel row y c θ).toNat : Int) =
      clamp ⌊255 * ((row.x : ℝ) * y + row.y * (c * Real.cos ((θ : ℝ) * Real.pi / 180)) +
        row.z * (c * Real.sin ((θ : ℝ) * Real.pi / 180))) + 1 / 2⌋ 0 255 := by
  rw [channel, clamp8_toNat, floorForm_exact]
  congr 2
  push_cast
  ring

/-- A channel depends on the angle only through its cosine and sine. -/
theorem channel_congr (row : Vec3) (y c θ θ' : Rat)
    (hc : Real.cos ((θ : ℝ) * Real.pi / 180) = Real.cos ((θ' : ℝ) * Real.pi / 180))
    (hs : Real.sin ((θ : ℝ) * Real.pi / 180) = Real.sin ((θ' : ℝ) * Real.pi / 180)) :
    channel row y c θ = channel row y c θ' := by
  rw [← BitVec.toNat_inj]
  have h := channel_toNat row y c θ
  have h' := channel_toNat row y c θ'
  rw [hc, hs] at h
  exact_mod_cast h.trans h'.symm

/-- Entry `i` of a built table. -/
theorem buildTable_getElem (cfg : Config) (s : Std) (p q : BitVec 16) (i : Nat) (h : i < 256) :
    (buildTable cfg s p q)[i] = buildEntry cfg s p q i := by
  simp [buildTable]

@[simp] theorem State.startBuild_status (s : State) :
    s.startBuild.status = { s.status with buildPending := false, buildBusy := true } := rfl
@[simp] theorem State.startBuild_build (s : State) :
    s.startBuild.build = { std := s.ctrl.std, phase := s.phase, sat := s.sat } := rfl
@[simp] theorem State.completeBuild_status (s : State) : s.completeBuild.status =
    { s.status with activeBank := s.status.activeBank.other, palValid := true, buildBusy := false } := rfl

theorem Bank.other_other (b : Bank) : b.other.other = b := by cases b <;> rfl

/-- Completion publishes the built table: the bank that becomes active holds it (41_palette.md R161). -/
theorem State.completeBuild_active (s : State) :
    s.completeBuild.bank s.completeBuild.status.activeBank = s.builtTable := by
  simp [State.completeBuild]

/-- Completion leaves the bank that was active as it was (20_memory.md R74). -/
theorem State.completeBuild_old (s : State) : s.completeBuild.bank s.status.activeBank = s.bank s.status.activeBank := by
  simp [State.completeBuild]

/-- Everything a step of the build engine can do (41_palette.md R160, R161). -/
theorem State.buildStep_cases (s : State) :
    (s.status.buildBusy = true ∧ s.buildStep = s.completeBuild) ∨
    (s.status.buildBusy = false ∧ s.status.buildPending = true ∧ s.buildStep = s.startBuild) ∨
    (s.status.buildBusy = false ∧ s.status.buildPending = false ∧ s.buildStep = s) := by
  unfold State.buildStep
  cases s.status.buildBusy <;> cases s.status.buildPending <;> simp

end Sys2Proof.Machine
end

