-- ==== Sys2Proof/Laws/PerInstr.lean ====
section
/-! SUPPORT. Statements made once per constructor of Instr. -/

namespace Sys2Proof.Laws

/-- The encoding of a well-formed command carries its row's OPCODE in bits 31:24 (30_encoding.md R90, R99). -/
def EncodedOpcode.Statement (i : Instr) : Prop := i.wellFormed = true → bitField (encode i) 31 24 = i.opcode

theorem EncodedOpcode.nop : EncodedOpcode.Statement .nop := fun _ => by decide

theorem EncodedOpcode.setStd (s : Std) : EncodedOpcode.Statement (.setStd s) := fun _ => by cases s <;> decide

theorem EncodedOpcode.setGeom (w h : Nat) : EncodedOpcode.Statement (.setGeom w h) := fun hw => by
  simp only [Instr.wellFormed, Bool.and_eq_true, decide_eq_true_eq] at hw
  rw [encode, bitField_ofNat _ _ _ (by omega), Instr.opcode]; norm_num; omega

theorem EncodedOpcode.setFrameLen (len : Nat) : EncodedOpcode.Statement (.setFrameLen len) := fun hw => by
  simp only [Instr.wellFormed, decide_eq_true_eq] at hw
  rw [encode, bitField_ofNat _ _ _ (by omega), Instr.opcode]; norm_num; omega

theorem EncodedOpcode.setPhase (imm : Nat) : EncodedOpcode.Statement (.setPhase imm) := fun hw => by
  simp only [Instr.wellFormed, decide_eq_true_eq] at hw
  rw [encode, bitField_ofNat _ _ _ (by omega), Instr.opcode]; norm_num; omega

theorem EncodedOpcode.adjPhase (simm : Int) : EncodedOpcode.Statement (.adjPhase simm) := fun _ => by
  have := field16_lt simm
  rw [encode, bitField_ofNat _ _ _ (by omega), Instr.opcode]; norm_num; omega

theorem EncodedOpcode.setSat (simm : Int) : EncodedOpcode.Statement (.setSat simm) := fun _ => by
  have := field16_lt simm
  rw [encode, bitField_ofNat _ _ _ (by omega), Instr.opcode]; norm_num; omega

theorem EncodedOpcode.adjSat (simm : Int) : EncodedOpcode.Statement (.adjSat simm) := fun _ => by
  have := field16_lt simm
  rw [encode, bitField_ofNat _ _ _ (by omega), Instr.opcode]; norm_num; omega

theorem EncodedOpcode.rebuild : EncodedOpcode.Statement .rebuild := fun _ => by decide

theorem EncodedOpcode.toggleScan : EncodedOpcode.Statement .toggleScan := fun _ => by decide

theorem EncodedOpcode.toggleBlend : EncodedOpcode.Statement .toggleBlend := fun _ => by decide

theorem EncodedOpcode.toggleLoop : EncodedOpcode.Statement .toggleLoop := fun _ => by decide

theorem EncodedOpcode.setFilters (scan blend loop : Bool) : EncodedOpcode.Statement (.setFilters scan blend loop) :=
  fun _ => by cases scan <;> cases blend <;> cases loop <;> decide

theorem EncodedOpcode.setScale (n : Nat) : EncodedOpcode.Statement (.setScale n) := fun hw => by
  simp only [Instr.wellFormed, decide_eq_true_eq] at hw
  rw [encode, bitField_ofNat _ _ _ (by omega), Instr.opcode]; norm_num; omega

theorem EncodedOpcode.render : EncodedOpcode.Statement .render := fun _ => by decide

end Sys2Proof.Laws
end

