-- ==== Sys2Proof/Laws/Render.lean ====
section
/-! SUPPORT. The render function by pixel, its bytes by index, and what the perform step writes. -/

namespace Sys2Proof.Machine

theorem pixel_index_lt (w h x y : Nat) (hx : x < w) (hy : y < h) : y * w + x < w * h := by
  have : (y + 1) * w ≤ h * w := Nat.mul_le_mul_right w hy
  rw [Nat.add_mul, Nat.one_mul] at this
  rw [Nat.mul_comm w h]; omega

theorem pixel_index_div (w x y : Nat) (hx : x < w) : (y * w + x) / w = y := by
  rw [Nat.mul_comm, Nat.mul_add_div (by omega), Nat.div_eq_of_lt hx, Nat.add_zero]

theorem pixel_index_mod (w x y : Nat) (hx : x < w) : (y * w + x) % w = x := by
  rw [Nat.mul_comm, Nat.mul_add_mod, Nat.mod_eq_of_lt hx]

/-- A pixel of a frame given by a list over its indices. -/
theorem pxAt_map (f : Nat → Rgb) (w h x y : Nat) (hx : x < w) (hy : y < h) :
    pxAt ((List.range (w * h)).map f).toArray w x y = f (y * w + x) := by
  have := pixel_index_lt w h x y hx hy
  simp [pxAt, this]

/-- Step 1 by pixel (42_render.md R203). -/
theorem pxAt_baseFrame (inp : Nat → Byte) (w h : Nat) (pal : Palette) (x y : Nat) (hx : x < w) (hy : y < h) :
    pxAt (baseFrame inp w h pal) w x y = paletteEntry pal (inp (y * w + x)) := pxAt_map _ w h x y hx hy

/-- Step 2 by pixel (42_render.md R204, R205). -/
theorem pxAt_blendFrame (cfg : Config) (s : Std) (base : Frame) (w h x y : Nat) (hx : x < w) (hy : y < h) :
    pxAt (blendFrame cfg s base w h) w x y =
      blendPixel cfg s (pxAt base w (x - 1) y) (pxAt base w x y) (pxAt base w (min (x + 1) (w - 1)) y) := by
  rw [blendFrame, pxAt_map _ w h x y hx hy, pixel_index_div w x y hx, pixel_index_mod w x y hx]

theorem flatMap_triples_length (f : Nat → Rgb) (n : Nat) :
    ((List.range n).flatMap fun k => rgbBytes (f k)).length = 3 * n := by
  induction n with
  | zero => rfl
  | succ n ih => rw [List.range_succ, List.flatMap_append, List.length_append, ih]; simp [rgbBytes]; omega

theorem flatMap_triples_get (f : Nat → Rgb) (n k c : Nat) (hk : k < n) (hc : c < 3) :
    ((List.range n).flatMap fun k => rgbBytes (f k))[3 * k + c]? = (rgbBytes (f k))[c]? := by
  induction n with
  | zero => omega
  | succ n ih =>
    rw [List.range_succ, List.flatMap_append]
    by_cases h : k < n
    · rw [List.getElem?_append_left (by rw [flatMap_triples_length]; omega), ih h]
    · have : k = n := by omega
      subst this
      rw [List.getElem?_append_right (by rw [flatMap_triples_length]; omega), flatMap_triples_length,
        show 3 * k + c - 3 * k = c by omega]
      simp

/-- The render gives `3·(W·S)·(H·S)` bytes (42_render.md R200). -/
theorem renderBytes_length (cfg : Config) (inp : Nat → Byte) (w h sc : Nat) (scan blend : Bool) (s : Std) (pal : Palette) :
    (renderBytes cfg inp w h sc scan blend s pal).length = 3 * ((w * sc) * (h * sc)) := flatMap_triples_length _ _

/-- The bytes of output pixel (xo, yo) (42_render.md R200, R207). -/
theorem renderBytes_get (cfg : Config) (inp : Nat → Byte) (w h sc : Nat) (scan blend : Bool) (s : Std) (pal : Palette)
    (xo yo c : Nat) (hx : xo < w * sc) (hy : yo < h * sc) (hc : c < 3) :
    (renderBytes cfg inp w h sc scan blend s pal)[3 * (yo * (w * sc) + xo) + c]? =
      (rgbBytes (outputPixel cfg (nativeFrame cfg inp w h blend s pal) w sc scan xo yo))[c]? := by
  rw [renderBytes, flatMap_triples_get _ _ _ c (pixel_index_lt (w * sc) (h * sc) xo yo hx hy) hc,
    pixel_index_div (w * sc) xo yo hx, pixel_index_mod (w * sc) xo yo hx]

theorem drawnBytes_length (a n : Nat) : (drawnBytes a n).length = n := by simp [drawnBytes]

/-- The bytes the perform step writes: the render's, or drawn ones (42_render.md R201). -/
def State.performed (s : State) : List Byte :=
  if s.snap.taint then drawnBytes s.draws s.regionLen else s.renderOutput

theorem State.performed_length (s : State) : s.performed.length = s.regionLen := by
  unfold State.performed
  split
  · exact drawnBytes_length _ _
  · rw [State.renderOutput, renderBytes_length, State.regionLen, outputBytes]; ring

/-- Everything the perform step does (42_render.md R201). -/
theorem State.performRender_spec (s : State) : ∃ n, s.performRender =
    (((s.setMem .outMem (Memory.setPrefix s.outMem s.performed)).setDraws n).setStatus
      { s.status with renderBusy := false, renderDone := true }) := by
  unfold State.performRender State.performed
  by_cases h : s.snap.taint = true
  · exact ⟨s.draws + s.regionLen, by simp only [h, if_true]⟩
  · exact ⟨s.draws, by simp only [h, Bool.false_eq_true, if_false]; rfl⟩

/-- Reading a byte after the perform step: the render region is rewritten, everything else reads as before. -/
theorem State.readByte_performRender (s : State) (sp : Space) (a : Nat) :
    s.performRender.readByte sp a =
      if sp = .outMem ∧ a < s.regionLen then (s.performed[a]?).getD 0 else s.readByte sp a := by
  obtain ⟨n, h⟩ := s.performRender_spec
  rw [h]
  simp only [State.setStatus_readByte, State.setDraws_readByte]
  rw [State.readByte_setMem]
  by_cases hs : sp = .outMem
  · subst hs
    rw [if_pos rfl, Memory.get?_setPrefix, State.performed_length]
    by_cases ha : a < s.regionLen
    · rw [if_pos ha, if_pos ⟨rfl, ha⟩, List.getElem?_eq_getElem (by rw [State.performed_length]; exact ha)]; rfl
    · rw [if_neg ha, if_neg (fun h => ha h.2)]; rfl
  · rw [if_neg hs, if_neg (fun h => hs h.1)]

end Sys2Proof.Machine
end

