-- ==== Sys2Proof/Laws/Step.lean ====
section
/-! SUPPORT. What one step can do: the one inversion lemma of `step`, and what leads to it. -/

namespace Sys2Proof.Machine

theorem Width.bytes_pos (n : Width) : 0 < n.bytes := by cases n <;> decide

/-- A memory target lies inside its memory (20_memory.md R61, R63). -/
theorem busTarget_mem (cfg : Config) (addr : Addr) (n : Width) (sp : Space) (off : Nat)
    (h : busTarget cfg addr n = some (.mem sp off)) : off + n.bytes ≤ memBytes cfg sp := by
  have hw : ∀ sp' a o, windowTarget cfg sp' a o n.bytes = some (.mem sp off) → off + n.bytes ≤ memBytes cfg sp := by
    intro sp' a o h
    unfold windowTarget at h
    split at h
    · rename_i hc
      cases h; exact hc.2
    · cases h
  unfold busTarget at h
  dsimp only at h
  split at h
  · split at h <;> cases h
  · split at h
    · exact hw _ _ _ h
    · split at h
      · exact hw _ _ _ h
      · cases h

/-- A register target is a multiple of 4 below 0x100, reached by a 4-byte access (20_memory.md R64). -/
theorem busTarget_reg (cfg : Config) (addr : Addr) (n : Width) (off : Nat)
    (h : busTarget cfg addr n = some (.reg off)) : off = addr.toNat ∧ off < 0x100 ∧ off % 4 = 0 ∧ n = .word := by
  have hw : ∀ sp' a o, windowTarget cfg sp' a o n.bytes ≠ some (.reg off) := by
    intro sp' a o h
    unfold windowTarget at h
    split at h <;> cases h
  unfold busTarget at h
  dsimp only at h
  split at h
  · split at h
    · rename_i h1 h2
      cases h; exact ⟨rfl, h1, h2.2, h2.1⟩
    · cases h
  · split at h
    · exact absurd h (hw _ _ _)
    · split at h
      · exact absurd h (hw _ _ _)
      · cases h

/-- While the schedule lasts it decides. -/
theorem State.pick_cons (s : State) (a : Agent) (ts : List Agent) (h : s.turns = a :: ts) :
    s.pick = (some a, s.setTurns ts) := by
  unfold State.pick; rw [h]

/-- The agents that may be enabled, and when (41_palette.md R160, R161, 42_render.md R201). -/
theorem State.mem_enabledAgents (s : State) (a : Agent) : a ∈ s.enabledAgents ↔
    (a = .host ∧ s.prog ≠ []) ∨ (a = .buildEngine ∧ s.status.buildEnabled = true) ∨
      (a = .renderEngine ∧ s.status.renderEnabled = true) := by
  unfold State.enabledAgents
  cases hp : s.prog <;> cases s.status.buildEnabled <;> cases s.status.renderEnabled <;> simp

/-- An overdue engine has a step enabled, and the one that is chosen among several agents is one of them (41_palette.md R163). -/
theorem State.choose_mem (s : State) (a : Agent) (as : List Agent) (h : s.enabledAgents = a :: as) :
    s.choose a as ∈ s.enabledAgents := by
  unfold State.choose
  split
  · rename_i hb
    simp only [State.buildOverdue, Bool.and_eq_true] at hb
    exact (s.mem_enabledAgents _).2 (.inr (.inl ⟨rfl, hb.1⟩))
  · split
    · rename_i hr
      simp only [State.renderOverdue, Bool.and_eq_true] at hr
      exact (s.mem_enabledAgents _).2 (.inr (.inr ⟨rfl, hr.1⟩))
    · rw [h]
      have hl : Config.chosenAgent s.draws % (a :: as).length < (a :: as).length := Nat.mod_lt _ (by simp)
      rw [List.getD_eq_getElem _ _ hl]
      exact List.getElem_mem hl

/-- With the schedule used up, nobody moves or one of the enabled agents does, never the reset input, and the waits follow. -/
theorem State.pick_nil (s : State) (h : s.turns = []) :
    (s.enabledAgents = [] ∧ s.pick = (none, s)) ∨
    ∃ a n, a ∈ s.enabledAgents ∧ s.pick = (some a, (s.setWaits (s.waitsAfter a)).setDraws n) := by
  unfold State.pick
  rw [h]
  dsimp only
  split
  · rename_i he; exact .inl ⟨he, rfl⟩
  · rename_i a he; exact .inr ⟨a, s.draws, by rw [he]; exact List.mem_singleton_self a, rfl⟩
  · rename_i a as _ he
    exact .inr ⟨s.choose a as, s.draws + 1, s.choose_mem a as he, rfl⟩

/-- With the schedule used up, an overdue build engine is the one that moves (41_palette.md R163). -/
theorem State.pick_buildOverdue (s : State) (h : s.turns = []) (hb : s.buildOverdue = true) :
    s.pick.1 = some .buildEngine := by
  have he : s.status.buildEnabled = true := by
    simp only [State.buildOverdue, Bool.and_eq_true] at hb; exact hb.1
  have hm := (s.mem_enabledAgents .buildEngine).2 (.inr (.inl ⟨rfl, he⟩))
  unfold State.pick
  rw [h]
  dsimp only
  split
  · rename_i h0; rw [h0] at hm; cases hm
  · rename_i a h1; rw [h1] at hm; rw [List.mem_singleton.1 hm]
  · rename_i a as _ h2; simp only [State.choose, hb, if_true]

/-- With the schedule used up, an overdue render engine moves unless the build engine is overdue too
(70_reset_and_hazards.md R266). -/
theorem State.pick_renderOverdue (s : State) (h : s.turns = []) (hb : s.buildOverdue = false) (hr : s.renderOverdue = true) :
    s.pick.1 = some .renderEngine := by
  have he : s.status.renderEnabled = true := by
    simp only [State.renderOverdue, Bool.and_eq_true] at hr; exact hr.1
  have hm := (s.mem_enabledAgents .renderEngine).2 (.inr (.inr ⟨rfl, he⟩))
  unfold State.pick
  rw [h]
  dsimp only
  split
  · rename_i h0; rw [h0] at hm; cases hm
  · rename_i a h1; rw [h1] at hm; rw [List.mem_singleton.1 hm]
  · rename_i a as _ h2; simp only [State.choose, hb, hr, if_true, Bool.false_eq_true, if_false]

/-- A wait after a turn: the three cases of `Wait.afterTurn`. -/
@[simp] theorem Wait.afterTurn_moved (w : Wait) (e : Bool) : w.afterTurn e true = { passed := 0, round := w.round + 1 } := rfl
@[simp] theorem Wait.afterTurn_passed (w : Wait) : w.afterTurn true false = { passed := w.passed + 1, round := w.round } := rfl
@[simp] theorem Wait.afterTurn_disabled (w : Wait) : w.afterTurn false false = w := rfl

/-- Every next state of a step that is not the reset input's, from the state `s1` that choosing the agent leaves. -/
inductive StepResult (s1 : State) : State → Prop
  /-- nobody moves, or the agent that moves has nothing to do -/
  | idle : StepResult s1 s1
  /-- a step of the build engine -/
  | build : StepResult s1 s1.buildStep
  /-- a step of the render engine -/
  | render : StepResult s1 s1.renderStep
  /-- a host read, or one repetition of a poll -/
  | read (ps : List HostOp) (n : Nat) (r : Response) : StepResult s1 (((s1.setProg ps).setDraws n).setResp r)
  /-- a host write to a register other than CMD -/
  | writeReg (ps : List HostOp) (addr : Addr) (n : Width) (v : Word) (off : Nat) :
      s1.prog = .access (.write addr n v) :: ps → off ≠ 0 → StepResult s1 (((s1.setProg ps).setResp .ok).writeReg off v)
  /-- a host write to a memory -/
  | writeMem (ps : List HostOp) (addr : Addr) (n : Width) (v : Word) (sp : Space) (off : Nat) :
      s1.prog = .access (.write addr n v) :: ps → off + n.bytes ≤ memBytes s1.cfg sp →
      StepResult s1 (((s1.setProg ps).setResp .ok).hostWrite sp off n.bytes v)
  /-- an illegal word written to CMD -/
  | illegal (ps : List HostOp) (v : Word) (e : DecodeError) :
      s1.prog = .access (.write 0 .word v) :: ps → decode v = .error e →
      StepResult s1 (((s1.setProg ps).setResp .ok).recordError .illegalOpcode)
  /-- a command written to CMD -/
  | command (ps : List HostOp) (v : Word) (i : Instr) (t : State) :
      s1.prog = .access (.write 0 .word v) :: ps → decode v = .ok i →
      exec i ((s1.setProg ps).setResp .ok) = .next t → StepResult s1 t

theorem State.hostStep_cases (s t : State) (h : s.hostStep = .next t) : StepResult s t := by
  unfold State.hostStep at h
  split at h
  · cases h; exact .idle
  · rename_i a rest hp
    unfold State.access at h
    split at h
    · rename_i addr n
      split at h
      · rename_i t' ht
        cases h
        unfold State.hostRead at ht
        obtain ⟨tg, -, rfl⟩ := Option.map_eq_some_iff.1 ht
        exact .read rest _ _
      · cases h
    · rename_i addr n v
      split at h
      · rename_i hb
        obtain ⟨ha, -, -, rfl⟩ := busTarget_reg _ _ _ _ hb
        obtain rfl : addr = 0 := BitVec.eq_of_toNat_eq ha.symm
        unfold State.command at h
        split at h
        · rename_i i hd; exact .command rest v i t hp hd h
        · rename_i e hd; cases h; exact .illegal rest v e hp hd
      · rename_i off hne _
        cases h
        exact .writeReg rest addr n v off hp (fun he => hne (by rw [he]))
      · rename_i sp off hb
        cases h
        exact .writeMem rest addr n v sp off hp (busTarget_mem _ _ _ _ _ hb)
      · cases h
  · rename_i addr mask expect rest hp
    unfold State.pollOnce at h
    split at h
    · rename_i tg s' ht hr
      unfold State.hostRead at hr
      obtain ⟨tg', ht', rfl⟩ := Option.map_eq_some_iff.1 hr
      split at h
      · cases h; exact .read rest _ _
      · cases h; exact .read s.prog _ _
    · cases h

/-- The inversion lemma of `step`: if it answers a next state, it was the reset input's turn, or the state is one of these. -/
theorem step_cases (s t : State) (h : step s = .next t) :
    (s.turns.head? = some .rst ∧ t = (s.setTurns s.turns.tail).applyReset) ∨
    ∃ ts w n, StepResult (((s.setTurns ts).setWaits w).setDraws n) t := by
  unfold step State.stepOnce at h
  cases ht : s.turns with
  | cons a ts =>
    rw [State.pick_cons s a ts ht] at h
    cases a with
    | host => exact .inr ⟨ts, s.waits, s.draws, State.hostStep_cases _ t h⟩
    | buildEngine => cases h; exact .inr ⟨ts, s.waits, s.draws, .build⟩
    | renderEngine => cases h; exact .inr ⟨ts, s.waits, s.draws, .render⟩
    | rst => cases h; exact .inl ⟨rfl, rfl⟩
  | nil =>
    right
    obtain ⟨-, hp⟩ | ⟨a, n, ha, hp⟩ := s.pick_nil ht
    · rw [hp] at h; cases h; exact ⟨s.turns, s.waits, s.draws, .idle⟩
    · rw [hp] at h
      refine ⟨s.turns, s.waitsAfter a, n, ?_⟩
      obtain ⟨rfl, -⟩ | ⟨rfl, -⟩ | ⟨rfl, -⟩ := (s.mem_enabledAgents a).1 ha
      · exact State.hostStep_cases _ t h
      · cases h; exact .build
      · cases h; exact .render

/-- The same, when the schedule says whose step it is. -/
theorem step_of_turn (s : State) (a : Agent) (ts : List Agent) (h : s.turns = a :: ts) :
    step s = (s.setTurns ts).agentStep a := by
  unfold step State.stepOnce
  rw [State.pick_cons s a ts h]

/-- A host write that is a hazard and one that is not, field by field (20_memory.md R70). -/
theorem State.hostWrite_status (s : State) (sp : Space) (off n : Nat) (v : Word) :
    (s.hostWrite sp off n v).status = if s.isHazard sp off then s.status.record .renderHazard else s.status := by
  unfold State.hostWrite
  split
  · rw [State.recordError_status, State.taintRender, State.setSnap_status, State.memWrite_eq_setMem, State.setMem_status]
  · rw [State.memWrite_eq_setMem, State.setMem_status]

/-- A host write changes one memory, and on a hazard R_TAINT and the error state. -/
theorem State.hostWrite_eq (s : State) (sp : Space) (off n : Nat) (v : Word) : s.hostWrite sp off n v =
    ((s.setMem sp ((s.memWrite sp off v n).mem sp)).setSnap
      { s.snap with taint := s.snap.taint || s.isHazard sp off }).setStatus
      (if s.isHazard sp off then s.status.record .renderHazard else s.status) := by
  rw [State.hostWrite, State.taintRender, State.recordError]
  have hm := s.memWrite_eq_setMem sp off v n
  by_cases h : s.isHazard sp off = true
  · rw [if_pos h, if_pos h, hm]
    cases sp <;> simp [State.setMem, State.setSnap, State.setStatus, State.mem, h]
  · rw [if_neg h, if_neg h, hm]
    cases sp <;> simp [State.setMem, State.setSnap, State.setStatus, State.mem, h]

/-- Whatever a step does beyond choosing its agent, it leaves the schedule and the waits. -/
theorem StepResult.schedule {s t : State} (h : StepResult s t) : t.turns = s.turns ∧ t.waits = s.waits := by
  cases h with
  | idle => exact ⟨rfl, rfl⟩
  | build =>
    obtain ⟨-, h⟩ | ⟨-, -, h⟩ | ⟨-, -, h⟩ := s.buildStep_cases <;> rw [h]
    · simp [State.completeBuild]
    · simp [State.startBuild]
    · simp
  | render =>
    unfold State.renderStep
    split
    · obtain ⟨n, h⟩ := s.performRender_spec
      rw [h]; simp
    · exact ⟨rfl, rfl⟩
  | read ps n r => exact ⟨rfl, rfl⟩
  | writeReg ps addr n v off _ _ => unfold State.writeReg; split <;> exact ⟨rfl, rfl⟩
  | writeMem ps addr n v sp off _ _ => rw [State.hostWrite_eq]; simp
  | illegal => exact ⟨rfl, rfl⟩
  | command ps v i _ hp hd he => exact (exec_cases i _ t (decode_wellFormed v i hd) he).schedule

/-- What a step makes of the schedule and the waits: the schedule loses its first entry; once it is used up, the waits follow the
agent that moves, and stay when nobody does. -/
theorem step_schedule (s t : State) (h : step s = .next t) :
    t.turns = s.turns.tail ∧
      ((s.turns ≠ [] ∧ t.waits = s.waits) ∨
       (s.turns = [] ∧ s.enabledAgents = [] ∧ t.waits = s.waits) ∨
       (s.turns = [] ∧ ∃ a ∈ s.enabledAgents, s.pick.1 = some a ∧ t.waits = s.waitsAfter a)) := by
  cases ht : s.turns with
  | cons a ts =>
    rw [step_of_turn s a ts ht] at h
    cases a with
    | rst => cases h; exact ⟨rfl, .inl ⟨by simp, rfl⟩⟩
    | host => have := (State.hostStep_cases _ t h).schedule; exact ⟨this.1, .inl ⟨by simp, this.2⟩⟩
    | buildEngine => cases h; have := (StepResult.build (s1 := s.setTurns ts)).schedule; exact ⟨this.1, .inl ⟨by simp, this.2⟩⟩
    | renderEngine => cases h; have := (StepResult.render (s1 := s.setTurns ts)).schedule; exact ⟨this.1, .inl ⟨by simp, this.2⟩⟩
  | nil =>
    unfold step State.stepOnce at h
    obtain ⟨he, hp⟩ | ⟨a, n, ha, hp⟩ := s.pick_nil ht
    · rw [hp] at h; cases h; exact ⟨ht, .inr (.inl ⟨rfl, he, rfl⟩)⟩
    · rw [hp] at h
      have hs : StepResult ((s.setWaits (s.waitsAfter a)).setDraws n) t := by
        obtain ⟨rfl, -⟩ | ⟨rfl, -⟩ | ⟨rfl, -⟩ := (s.mem_enabledAgents a).1 ha
        · exact State.hostStep_cases _ t h
        · cases h; exact .build
        · cases h; exact .render
      exact ⟨hs.schedule.1.trans ht, .inr (.inr ⟨rfl, a, ha, by rw [hp], hs.schedule.2⟩)⟩

end Sys2Proof.Machine
end

