-- ==== Sys2Proof/Machine/Program.lean ====
section
/-! DEFINITION. The lines of a host program and their expansion into host accesses: the host-access syntax of 30_encoding.md R106,
the pseudo-instructions of R107, and the boot and frame sequences of 70_reset_and_hazards.md R253. -/

namespace Sys2Proof.Machine

/-- A line of a program (30_encoding.md R106, R107; the accesses of 20_memory.md R60 that have no syntax of their own are
`access`). -/
inductive ProgramLine where
  | access (a : Access)
  | wr32 (a : Addr) (v : Word)
  | wr8 (a : Addr) (v : Byte)
  | rd32 (a : Addr)
  | rd8 (a : Addr)
  | poll (a : Addr) (m e : Word)
  /-- a command mnemonic standing alone -/
  | command (i : Instr)
  | waitBuild
  | waitRender
  | clearStatus
  | setPhaseDeg (x : Rat)
  | setSatF (x : Rat)
  /-- `READ_PAL i`. DESIGN CHOICE (log 22): R107 states no range for i, and any 32-bit value is taken; PAL_INDEX stores its low 8
  bits (10_state.md R32). -/
  | readPal (i : Word)
deriving DecidableEq, Repr

/-- `WR32 0x000000, <encoding>`, refused where the assembler refuses the operand (30_encoding.md R105, R106). -/
def commandLine (i : Instr) : Option (List HostOp) :=
  if i.wellFormed then some [.access (.write 0 .word (encode i))] else none

/-- The integer that a rational is, if it is one. -/
def wholeNumber (x : Rat) : Option Int := if x.den = 1 then some x.num else none

/-- `SET_PHASE_DEG x`: `SET_PHASE c` with c = 100·x, a non-negative integer in the range of SET_PHASE (30_encoding.md R107). -/
def phaseDegLine (x : Rat) : Option (List HostOp) :=
  (wholeNumber (100 * x)).bind fun c => if 0 ≤ c then commandLine (.setPhase c.toNat) else none

/-- `SET_SAT_F x`: `SET_SAT q` with q = 256·x, an integer in the range of SET_SAT (30_encoding.md R107). -/
def satFLine (x : Rat) : Option (List HostOp) := (wholeNumber (256 * x)).bind fun q => commandLine (.setSat q)

/-- What a program line makes the host do (30_encoding.md R106, R107); none for a line the assembler refuses. -/
def ProgramLine.expand : ProgramLine → Option (List HostOp)
  | .access a => some [.access a]
  | .wr32 a v => some [.access (.write a .word v)]
  | .wr8 a v => some [.access (.write a .byte (v.setWidth 32))]
  | .rd32 a => some [.access (.read a .word)]
  | .rd8 a => some [.access (.read a .byte)]
  | .poll a m e => some [.poll a m e]
  | .command i => commandLine i
  | .waitBuild => some [.poll 0x000004 0x00000007 0x00000004]
  | .waitRender => some [.poll 0x000004 0x00000030 0x00000020]
  | .clearStatus => some [.access (.write 0x000004 .word 0x00FF0020)]
  | .setPhaseDeg x => phaseDegLine x
  | .setSatF x => satFLine x
  | .readPal i => some [.access (.write 0x00001C .word i), .access (.read 0x000020 .word)]

/-- The host operations of a whole program, in order; none when a line is refused. -/
def expandProgram : List ProgramLine → Option (List HostOp)
  | [] => some []
  | l :: ls => l.expand.bind fun ops => (expandProgram ls).map fun rest => ops ++ rest

/-- The operand a host writes for a phase of φ degrees, `rnd(100·φ) mod 36000` (41_palette.md R141). -/
def phaseOperand (φ : Rat) : Nat := (rnd (100 * φ) % 36000).toNat

/-- Steps 2 to 5 of the boot sequence: the standard, the geometry, optional settings, the wait for the palette
(70_reset_and_hazards.md R253; step 1 is the reset event). -/
def bootLines (std : Std) (w h : Nat) (settings : List ProgramLine) : List ProgramLine :=
  [.command (.setStd std), .command (.setGeom w h)] ++ settings ++ [.waitBuild]

/-- The payload bytes written to IN_MEM from an offset on (70_reset_and_hazards.md R253, 42_render.md R203). -/
def payloadLines : Nat → List Byte → List ProgramLine
  | _, [] => []
  | off, b :: bs => .wr8 (BitVec.ofNat 24 (0x100000 + off)) b :: payloadLines (off + 1) bs

/-- What the host writes and reads for one frame of `w * h` payload bytes, up to the wait for its end; between RENDER and the
wait it reads STATUS, to check that no error was recorded (70_reset_and_hazards.md R253, R263). -/
def frameLines (w h : Nat) (payload : List Byte) : List ProgramLine :=
  payloadLines 0 payload ++ [.command (.setFrameLen (w * h)), .command .render, .rd32 0x000004, .waitRender]

end Sys2Proof.Machine
end

