-- ==== Sys2Proof/Tests/Slice0.lean ====
section
/-! SUPPORT. Tests: the ill-formed operands that WellFormed refuses, command words written out from 30_encoding.md, single steps
with the results of 95_test_vectors.md, and a witness for the hypotheses of every statement. Expected values are the spec's. -/

namespace Sys2Proof.Tests

open Sys2Proof Sys2Proof.Machine

/-! ### Helpers -/

/-- The next state of an outcome. -/
def nextOf (o : Host.Outcome State Fault Refusal) : Option State :=
  match o with
  | .next t => some t
  | _ => none

/-- `s` with the host's step next and one access to make. -/
def hosting (s : State) (a : Access) : State := { s with turns := [.host], prog := [.access a] }

/-- The state after one host access. -/
def after (s : State) (a : Access) : Option State := nextOf (step (hosting s a))

/-- The state after one host write of a word. -/
def wr (s : State) (a : Addr) (v : Word) : Option State := after s (.write a .word v)

/-- What one register reads as after a command word is written to CMD. -/
def regAfter (s : State) (w : Word) (off : Nat) : Option Word := (wr s 0 w).map fun t => t.readReg off

/-- S0 of 95_test_vectors.md: reset, then the first build. -/
def s0 : State := State.reset.startBuild.completeBuild

/-- S1 of 95_test_vectors.md section 6.2: S0, SET_GEOM 2, 1 and SET_FRAME_LEN 2. -/
def s1 : State := { s0 with geomW := 2, geomH := 1, frameLen := 2 }

/-- S1 with its RENDER accepted. -/
def accepted : State := s1.acceptRender

/-- The words a render gives. -/
def rendered (bytes : List Nat) (w h scale : Nat) (scan blend : Bool) (std : Std) (sat : BitVec 16) : List Nat :=
  (renderBytes Config.reference (fun k => BitVec.ofNat 8 (bytes.getD k 0)) w h scale scan blend std
    (buildTable Config.reference std 0 sat)).map BitVec.toNat

/-! ### Well-formed operands (30_encoding.md R105): one ill-formed term for each check -/

theorem test_refuses_geom_width : (Instr.setGeom 4096 1).wellFormed = false := by decide
theorem test_refuses_geom_height : (Instr.setGeom 1 4096).wellFormed = false := by decide
theorem test_refuses_frame_len : (Instr.setFrameLen 16777216).wellFormed = false := by decide
theorem test_refuses_phase : (Instr.setPhase 65536).wellFormed = false := by decide
theorem test_refuses_adj_phase_low : (Instr.adjPhase (-32769)).wellFormed = false := by decide
theorem test_refuses_adj_phase_high : (Instr.adjPhase 32768).wellFormed = false := by decide
theorem test_refuses_sat_low : (Instr.setSat (-32769)).wellFormed = false := by decide
theorem test_refuses_sat_high : (Instr.setSat 32768).wellFormed = false := by decide
theorem test_refuses_adj_sat_low : (Instr.adjSat (-32769)).wellFormed = false := by decide
theorem test_refuses_adj_sat_high : (Instr.adjSat 32768).wellFormed = false := by decide
theorem test_refuses_scale : (Instr.setScale 16).wellFormed = false := by decide

/-! ### Command words (30_encoding.md R90 to R105; 95_test_vectors.md section 2) -/

theorem test_word_nop : decodeTableWord 32 0x00000000 = some .nop ∧ decodeTableWord 32 0x00ABCDEF = some .nop := by decide
theorem test_word_set_std :
    decodeTableWord 32 0x01000001 = some (.setStd .stdB) ∧ decodeTableWord 32 0x010000FE = some (.setStd .stdA) := by decide
theorem test_word_set_geom : decodeTableWord 32 0x020A0060 = some (.setGeom 160 96) := by decide
theorem test_word_set_frame_len : decodeTableWord 32 0x03003C00 = some (.setFrameLen 15360) := by decide
theorem test_word_set_phase : decodeTableWord 32 0x10FF2328 = some (.setPhase 9000) := by decide
theorem test_word_adj_phase : decodeTableWord 32 0x1100FE0C = some (.adjPhase (-500)) := by decide
theorem test_word_set_sat :
    decodeTableWord 32 0x12000180 = some (.setSat 384) ∧ decodeTableWord 32 0x1200FFFF = some (.setSat (-1)) := by decide
theorem test_word_adj_sat : decodeTableWord 32 0x1300FFC0 = some (.adjSat (-64)) := by decide
theorem test_word_rebuild : decodeTableWord 32 0x14000000 = some .rebuild := by decide
theorem test_word_toggles : decodeTableWord 32 0x20000000 = some .toggleScan ∧
    decodeTableWord 32 0x21000000 = some .toggleBlend ∧ decodeTableWord 32 0x22000000 = some .toggleLoop := by decide
theorem test_word_set_filters : decodeTableWord 32 0x23000006 = some (.setFilters false true true) ∧
    decodeTableWord 32 0x23FFFFF8 = some (.setFilters false false false) := by decide
theorem test_word_set_scale :
    decodeTableWord 32 0x24000002 = some (.setScale 2) ∧ decodeTableWord 32 0x24000011 = some (.setScale 1) := by decide
theorem test_word_render : decodeTableWord 32 0x30000000 = some .render := by decide
theorem test_word_illegal : [0x04000000, 0x0F000000, 0x15000000, 0x25000000, 0x31000000, 0xFF000000].map (decodeTableWord 32) =
    [none, none, none, none, none, none] := by decide
theorem test_one_word_only : decodeBytes [0, 0, 0] = .error .notOneWord := by decide
theorem test_assemble : assemble "ADJ_PHASE" [-500] = some (.adjPhase (-500)) ∧ assemble "SET_SCALE" [16] = none := by decide
theorem test_words_fetched : (nextOf (step (State.reset.withFetchWord 32 0x01000001))).map (·.readReg 8) = some 0x1B := by decide

/-! ### Commands, one step each (95_test_vectors.md sections 4, 5.1, 6.1, 6.2) -/

theorem test_nop_keeps_status : regAfter State.reset 0x00ABCDEF 4 = some 0x00000002 := by decide
theorem test_set_std : regAfter State.reset 0x01000001 8 = some 0x0000001B := by decide
theorem test_set_std_requests : regAfter s0 0x01000000 4 = some 0x0000000E := by decide +kernel
theorem test_set_geom : regAfter State.reset 0x020A0060 0x14 = some 0x000A0060 := by decide
theorem test_set_geom_bad : regAfter State.reset 0x02000005 4 = some 0x00020282 := by decide
theorem test_set_frame_len : regAfter State.reset 0x03FFFFFF 0x18 = some 0x00FFFFFF := by decide
theorem test_set_phase_wraps : regAfter State.reset 0x1000FFFF 0x0C = some 29535 := by decide
theorem test_adj_phase_down : regAfter { State.reset with phase := 100 } 0x1100FF38 0x0C = some 35900 := by decide
theorem test_adj_phase_up : regAfter { State.reset with phase := 35000 } 0x11000D48 0x0C = some 2400 := by decide
theorem test_set_sat_negative : regAfter State.reset 0x12008000 0x10 = some 0 := by decide
theorem test_set_sat : regAfter State.reset 0x12000180 0x10 = some 0x180 := by decide
theorem test_adj_sat_low : regAfter { State.reset with sat := 0x10 } 0x1300FF00 0x10 = some 0 := by decide
theorem test_adj_sat_high : regAfter { State.reset with sat := 0x7F00 } 0x13000200 0x10 = some 0x7FFF := by decide
theorem test_rebuild : regAfter s0 0x14000000 4 = some 0x0000000E := by decide +kernel
theorem test_toggle_scan : regAfter State.reset 0x20000000 8 = some 0x12 := by decide
theorem test_toggle_blend : regAfter State.reset 0x21000000 8 = some 0x11 := by decide
theorem test_toggle_loop : regAfter State.reset 0x22000000 8 = some 0x17 := by decide
theorem test_set_filters : regAfter State.reset 0x23000004 8 = some 0x14 := by decide
theorem test_set_scale : regAfter State.reset 0x2400000F 8 = some 0xF3 := by decide
theorem test_set_scale_zero : regAfter State.reset 0x24000000 8 = some 0x13 := by decide
theorem test_render_accepts : regAfter s1 0x30000000 4 = some 0x0000001C := by decide +kernel
theorem test_render_errors :
    regAfter { s1 with frameLen := 3 } 0x30000000 4 = some 0x002006CC ∧
    regAfter { accepted with frameLen := 5 } 0x30000000 4 = some 0x0004039C ∧
    regAfter { s0 with geomW := 256, geomH := 240, frameLen := 61440, ctrl := { s0.ctrl with scale := 5 } } 0x30000000 4 =
      some 0x0010058C := by decide +kernel
theorem test_illegal_word : regAfter s0 0x05000000 4 = some 0x0001018C := by decide +kernel

/-! ### Bus and STATUS (95_test_vectors.md sections 3, 6.4, 7) -/

theorem test_mixed_width : (wr State.reset 0x100000 0x44332211).map
    (fun t => [t.memRead .inMem 2 1, t.memRead .inMem 2 2, t.memRead .inMem 0 4]) = some [0x33, 0x4433, 0x44332211] := by decide
theorem test_bus_errors :
    [busTarget Config.reference 0x000004 .byte, busTarget Config.reference 0x000006 .word,
     busTarget Config.reference 0x100002 .word, busTarget Config.reference 0x400001 .half,
     busTarget Config.reference 0x110000 .word, busTarget Config.reference 0x000100 .word,
     busTarget Config.reference 0x800000 .byte] = [none, none, none, none, none, none, none] := by decide
theorem test_last_out_byte : busTarget Config.reference 0x7FFFFF .byte = some (.mem .outMem 0x3FFFFF) := by decide
theorem test_hazard_write : (after accepted (.write 0x100000 .byte 0)).map (fun t => (t.readReg 4, t.snap.taint)) =
    some (0x0040079C, true) := by decide +kernel
theorem test_no_hazard_past_region : (after accepted (.write 0x400006 .byte 0)).map (fun t => (t.readReg 4, t.snap.taint)) =
    some (0x0000001C, false) := by decide +kernel
theorem test_status_clear : (wr { State.reset with status := { State.reset.status with errBits := 3, errFirst := 1 } } 4 0x00010000).map
    (·.readReg 4) = some 0x00020182 := by decide
theorem test_fatal_stays : (wr { State.reset with status := { State.reset.status with fatal := true, errBits := 0x20, errFirst := 6 } } 4
    0xFFFFFFFF).map (·.readReg 4) = some 0x00000042 := by decide
theorem test_pal_index : (wr s0 0x1C 0x12345637).map (fun t => (t.readReg 0x1C, t.readReg 0x20)) = some (0x37, 0x005B9C00) := by
  decide +kernel
theorem test_pseudo_phase_deg : (ProgramLine.setPhaseDeg 90).expand = some [.access (.write 0 .word 0x10002328)] := by decide +kernel

theorem test_phase_operand : phaseOperand 360 = 0 ∧ phaseOperand (-5) = 35500 := by decide +kernel
theorem test_boot_lines : expandProgram (bootLines .stdB 2 1 [.clearStatus]) = some [.access (.write 0 .word 0x01000001),
    .access (.write 0 .word 0x02002001), .access (.write 4 .word 0x00FF0020), .poll 4 7 4] := by decide

/-! ### The engines, the palette, the renderer (95_test_vectors.md sections 5.2, 5.3, 5.4, 6.3) -/

theorem test_build_start : State.reset.buildStep.readReg 4 = 0x00000001 := by decide
theorem test_build_complete : s0.readReg 4 = 0x0000000C := by decide
theorem test_entry_std_a : buildEntry Config.reference .stdA 0 0x100 0x97 = ⟨0x5B, 0x6E, 0xEF⟩ := by decide +kernel
theorem test_entry_std_b : buildEntry Config.reference .stdB 2400 0x80 0x37 = ⟨0x92, 0x72, 0x4C⟩ := by decide +kernel
theorem test_render_blend : rendered [0x0F, 0x97] 2 1 1 false true .stdA 0x100 = [0xE5, 0xE4, 0xC5, 0x75, 0x81, 0xCD] := by
  decide +kernel
theorem test_render_all : rendered [0x0F, 0x00, 0x00, 0x0F] 2 2 1 true true .stdA 0x100 =
    [0xDD, 0xD7, 0x98, 0x22, 0x20, 0x0B, 0x19, 0x18, 0x08, 0xA5, 0xA1, 0x72] := by decide +kernel
theorem test_render_scale : rendered [0x48] 1 1 3 true false .stdA 0x100 =
    [0x55, 0xB4, 0x2C, 0x55, 0xB4, 0x2C, 0x55, 0xB4, 0x2C, 0x3F, 0x87, 0x21, 0x3F, 0x87, 0x21, 0x3F, 0x87, 0x21,
     0x55, 0xB4, 0x2C, 0x55, 0xB4, 0x2C, 0x55, 0xB4, 0x2C] := by decide +kernel
theorem test_perform : accepted.renderStep.readReg 4 = 0x0000002C := by decide +kernel
theorem test_reset_after_fatal : ({ s0 with status := { s0.status with fatal := true } } : State).applyReset.readReg 4 = 2 := by decide

/-! ### Witnesses: a state and operands that meet the hypotheses of each statement, named after it -/

/-- The reference configuration meets the constraints of 00_scope.md R9, R10 and R11. -/
theorem test_reference_legal : ConfigLegal Config.reference where
  inSize := by decide
  outSize := by decide
  dirOpposite := rfl
  refDistinct := by decide +kernel
  stepDistinct := by decide +kernel
  matrixDistinct := by decide +kernel
  chromaZero := by decide +kernel
  chromaNonneg := by decide +kernel
  columnA := by unfold firstColumnOnes; decide +kernel
  columnB := by unfold firstColumnOnes; decide +kernel
  invertibleA := by decide +kernel
  invertibleB := by decide +kernel
  lumaWeight := by decide
  chromaWeight := by decide
  attenuation := by decide

/-- DecodeEncodeRoundTrip, and every statement about a well-formed operand, at both ends of each range. -/
theorem witness_wellFormed : [Instr.setGeom 0 0, .setGeom 1 1, .setGeom 4095 4095, .setGeom 0 5, .setGeom 1 0, .setFrameLen 0,
    .setFrameLen 16777215, .setPhase 0, .setPhase 65535, .adjPhase (-32768), .adjPhase 32767, .setSat (-32768), .setSat 32767,
    .adjSat (-32768), .adjSat 32767, .setScale 0, .setScale 1, .setScale 15].map Instr.wellFormed = List.replicate 18 true := by decide

theorem witness_EncodeOfDecodeKeepsUsedBits : decode 0x23FFFFFF = .ok (.setFilters true true true) := by decide
theorem witness_ReservedBitsAreIgnored : decode 0x24FFFFF3 = .ok (.setScale 3) ∧
    (0x24000003 : Word) &&& (Instr.setScale 3).usedMask = 0x24FFFFF3 &&& (Instr.setScale 3).usedMask := by decide

/-- DecodingFollowsTheOpcodeMap and the encoding clauses of the commands: a word of every OPCODE, and the illegal neighbours. -/
theorem witness_opcodes : [0x00FFFFFF, 0x01FFFFFF, 0x02FFFFFF, 0x03FFFFFF, 0x10FFFFFF, 0x11FFFFFF, 0x12FFFFFF, 0x13FFFFFF, 0x14FFFFFF,
    0x20FFFFFF, 0x21FFFFFF, 0x22FFFFFF, 0x23FFFFFF, 0x24FFFFFF, 0x30FFFFFF, 0x04000000, 0x0FFFFFFF, 0x15000000, 0x1FFFFFFF,
    0x25000000, 0x2FFFFFFF, 0x31000000, 0xFFFFFFFF].map (fun w : Word => bitField w 31 24) =
    [0x00, 0x01, 0x02, 0x03, 0x10, 0x11, 0x12, 0x13, 0x14, 0x20, 0x21, 0x22, 0x23, 0x24, 0x30, 0x04, 0x0F, 0x15, 0x1F, 0x25, 0x2F,
     0x31, 0xFF] := by decide

theorem witness_IllegalWordOnlyRecordsCodeOne :
    (hosting State.reset (.write 0 .word 0x04000000)).turns = .host :: [] ∧
    (hosting State.reset (.write 0 .word 0x04000000)).prog = .access (.write 0 .word 0x04000000) :: [] ∧
    bitField 0x04000000 31 24 ∉ [0x00, 0x01, 0x02, 0x03, 0x10, 0x11, 0x12, 0x13, 0x14, 0x20, 0x21, 0x22, 0x23, 0x24, 0x30] := by
  decide
theorem witness_StepRunsDecodedCommand :
    (hosting State.reset (.write 0 .word 0x020A0060)).turns = .host :: [] ∧
    (hosting State.reset (.write 0 .word 0x020A0060)).prog = .access (.write 0 .word 0x020A0060) :: [] ∧
    decode 0x020A0060 = .ok (.setGeom 160 96) ∧ 0x020A0060 < 2 ^ 32 ∧
    decodeTableWord 32 0x020A0060 = some (.setGeom 160 96) := by decide

theorem witness_AdjPhaseSequenceAddsUp : State.reset.phase.toNat < 36000 ∧
    ∀ d ∈ [(-32768 : Int), 32767, 0], (Instr.adjPhase d).wellFormed = true := by decide
theorem witness_RebuildResult : State.reset.startBuild.status.buildBusy = true := by decide

/-- RenderAcceptsOrRaises: a state for the accept, and one for each check. -/
theorem witness_render_accept : s1.status.fatal = false ∧ s1.status.renderBusy = false ∧ s1.geomW ≠ 0 ∧ s1.geomH ≠ 0 ∧
    s1.frameLen.toNat = s1.geomW.toNat * s1.geomH.toNat ∧ s1.geomW.toNat * s1.geomH.toNat ≤ s1.cfg.inMemBytes ∧
    3 * (s1.geomW.toNat * s1.ctrl.scale.toNat) * (s1.geomH.toNat * s1.ctrl.scale.toNat) ≤ s1.cfg.outMemBytes ∧
    ({ s1 with status := State.reset.status } : State).status.palValid = false := by decide
theorem witness_render_refused_busy : ({ s1 with status := { s1.status with fatal := true } } : State).status.fatal = true ∧
    accepted.status.fatal = false ∧ accepted.status.renderBusy = true := by decide
theorem witness_render_not_configured : s0.status.fatal = false ∧ s0.status.renderBusy = false ∧ (s0.geomW = 0 ∨ s0.geomH = 0) ∧
    ({ s0 with frameLen := 3, geomW := 2, geomH := 1 } : State).frameLen.toNat ≠ 2 * 1 := by decide
theorem witness_render_capacity :
    let s : State := { s0 with geomW := 300, geomH := 300, frameLen := 90000 }
    s.frameLen.toNat = s.geomW.toNat * s.geomH.toNat ∧ s.cfg.inMemBytes < s.geomW.toNat * s.geomH.toNat ∧
    (let t : State := { s0 with geomW := 256, geomH := 240, frameLen := 61440, ctrl := { s0.ctrl with scale := 5 } }
     t.frameLen.toNat = t.geomW.toNat * t.geomH.toNat ∧ t.geomW.toNat * t.geomH.toNat ≤ t.cfg.inMemBytes ∧
     t.cfg.outMemBytes < 3 * (t.geomW.toNat * t.ctrl.scale.toNat) * (t.geomH.toNat * t.ctrl.scale.toNat)) := by decide

theorem witness_ErrorRecordingWritesStatusOnly :
    State.reset.status.errBits = 0 ∧ (State.reset.recordError .badOperand).status.errBits ≠ 0 := by decide
theorem witness_CommandsCompletePreciselyAndKeepSnapshots : accepted.status.renderBusy = true := by decide
theorem witness_OnlyPaletteInputsRequestABuild :
    exec .nop State.reset = .next State.reset ∧ (∀ v, Access.read 0x04 .word ≠ .write 0 .word v) ∧
    State.reset.access (.read 0x04 .word) = .next { State.reset with resp := .data .word 0x00000002 } :=
  ⟨rfl, fun v => by simp, rfl⟩
theorem witness_StatusWriteOneToClear :
    (hosting State.reset (.write 4 .word 0x00FF0020)).turns = .host :: [] ∧
    (hosting State.reset (.write 4 .word 0x00FF0020)).prog = .access (.write 4 .word 0x00FF0020) :: [] := by decide
theorem witness_ResetSetsEveryRegister : ({ accepted with turns := [.rst] } : State).turns = .rst :: [] := by decide
theorem witness_PaletteReadBack :
    (hosting s0 (.write 0x1C .word 0x12345637)).turns = .host :: [] ∧
    (hosting s0 (.write 0x1C .word 0x12345637)).prog = .access (.write 0x1C .word 0x12345637) :: [] ∧
    State.reset.status.palValid = false ∧ s0.status.palValid = true := by decide
theorem witness_RegisterReadsAndIgnoredWrites :
    (hosting State.reset (.read 0xFC .word)).turns = .host :: [] ∧
    (hosting State.reset (.read 0xFC .word)).prog = .access (.read 0xFC .word) :: [] ∧
    (hosting State.reset (.write 0xFC .word 1)).prog = .access (.write 0xFC .word 1) :: [] ∧
    (hosting State.reset (.write 0x08 .word 1)).prog = .access (.write 0x08 .word 1) :: [] ∧
    (0xFC : Addr).toNat < 0x100 ∧ (0xFC : Addr).toNat % 4 = 0 ∧ (0x08 : Addr).toNat % 4 = 0 ∧ (0x08 : Addr).toNat ≠ 0 ∧
    (0x08 : Addr).toNat ≠ 4 ∧ (0x08 : Addr).toNat ≠ 0x1C ∧ (0 = 0 ∨ 0x24 ≤ 0) ∧ (0x24 = 0 ∨ 0x24 ≤ 0x24) := by decide
theorem witness_BusErrorExactly : Access.read 0x110000 .word = .read 0x110000 .word ∧
    State.reset.access (.read 0x110000 .word) = .fault .busError ∧
    State.reset.access (.write 0x7FFFFC .word 1) ≠ .fault .busError :=
  ⟨rfl, rfl, by intro h; cases h⟩

/-- MemoryWriteStoresLittleEndian, HazardWriteTaintsAndRecords, ReadsReturnBytesAndChangeNothing: the last hazardous byte of each
memory and the first that is none. -/
theorem witness_memory_accesses :
    Mapped accepted.cfg 0x100001 .byte .inMem 1 ∧ Mapped accepted.cfg 0x100002 .half .inMem 2 ∧
    Mapped accepted.cfg 0x400005 .byte .outMem 5 ∧ Mapped accepted.cfg 0x400006 .half .outMem 6 ∧
    Mapped accepted.cfg 0x10FFFC .word .inMem 0xFFFC ∧ Mapped accepted.cfg 0x7FFFFC .word .outMem 0x3FFFFC ∧
    busTarget accepted.cfg 0x400005 .byte = some (.mem .outMem 5) ∧
    accepted.status.renderBusy = true ∧ 1 < accepted.snap.w.toNat * accepted.snap.h.toNat ∧
    ¬(2 < accepted.snap.w.toNat * accepted.snap.h.toNat) ∧ 5 < accepted.regionLen ∧ ¬(6 < accepted.regionLen) := by
  unfold Mapped; decide

/-- ReadsReturnBytesAndChangeNothing: a read that starts in the render region and ends outside it. -/
theorem witness_read_across_region : Mapped accepted.cfg 0x400004 .word .outMem 4 ∧ 2 < Width.word.bytes ∧
    ¬(accepted.status.renderBusy = true ∧ Space.outMem = .outMem ∧ 4 + 2 < accepted.regionLen) ∧ Width.half.bytes ≤ 2 := by
  unfold Mapped; decide
theorem witness_PollRepeatsUntilMatched :
    let s : State := { State.reset with turns := [.host], prog := [.poll 0x04 0x07 0x04] }
    s.turns = .host :: [] ∧ s.prog = .poll 0x04 0x07 0x04 :: [] ∧ (0x04 : Addr).toNat < 0x100 ∧ (0x04 : Addr).toNat % 4 = 0 := by
  decide

/-- The last register, the ends of both memories, and a poll that meets a BUS_ERROR. -/
theorem witness_poll_addresses : ((0xFC : Addr).toNat < 0x100 ∧ (0xFC : Addr).toNat % 4 = 0) ∧
    Mapped State.reset.cfg 0x100000 .word .inMem 0 ∧ Mapped State.reset.cfg 0x10FFFC .word .inMem 0xFFFC ∧
    Mapped State.reset.cfg 0x400000 .word .outMem 0 ∧ Mapped State.reset.cfg 0x7FFFFC .word .outMem 0x3FFFFC := by
  unfold Mapped; decide
theorem test_poll_bus_error :
    step { State.reset with turns := [.host], prog := [.poll 0x110000 1 1] } = .fault .busError := rfl

theorem witness_NeutralGrays : ConfigLegal Config.reference ∧ 15 < 16 ∧ 255 < 256 := ⟨test_reference_legal, by decide, by decide⟩
theorem witness_PaletteIsPeriodicInPhase : (0#16).toNat % 36000 = (36000#16).toNat % 36000 ∧ State.reset.phase.toNat < 36000 ∧
    exec .nop State.reset = .next State.reset := ⟨by decide, by decide, rfl⟩
theorem witness_PhaseRotatesTheHues : 15 < 16 ∧ 0 < 16 ∧ (BitVec.ofNat 16 (2250 * 15)).toNat = 33750 := by decide
theorem witness_BuildStartTakesTheSnapshot :
    let s : State := { State.reset with turns := [.buildEngine] }
    s.turns = .buildEngine :: [] ∧ s.status.buildPending = true ∧ s.status.buildBusy = false ∧
    (nextOf (step s)).isSome = true ∧ isPaletteInput .rebuild = true ∧ (nextOf (exec .rebuild State.reset)).isSome = true := by decide
theorem witness_BuildCompletePublishesBySwap :
    let s : State := { State.reset.startBuild with turns := [.buildEngine] }
    s.turns = .buildEngine :: [] ∧ s.status.buildBusy = true := by decide

/-- After the first build the active bank is current. -/
theorem witness_palette_current : PaletteCurrent s0 where
  requested := by intro h; cases h
  snapshot := by intro h; cases h
  whole := fun _ => ⟨.stdA, 0, 0x100, by decide, by decide, rfl⟩
  current := fun _ _ _ => rfl
theorem witness_PolledPaletteIsCurrent : PaletteCurrent s0 ∧ s0.readReg 4 &&& 7 = 4 := ⟨witness_palette_current, by decide⟩

/-- A state in which everything is in range: S0 with a geometry, a render accepted and the host reading STATUS next. -/
def busyState : State := hosting accepted (.read 4 .word)

theorem witness_registers : RegistersInRange busyState where
  phase := by decide
  sat := by decide
  scale := by decide
  geom := by decide
  buildPhase := by intro h; cases h
  buildSat := by intro h; cases h
theorem witness_busy_palette : PaletteCurrent busyState where
  requested := by intro h; cases h
  snapshot := by intro h; cases h
  whole := fun _ => ⟨.stdA, 0, 0x100, by decide, by decide, rfl⟩
  current := fun _ _ _ => rfl
theorem witness_StepKeepsInvariant : StateInv busyState ∧ step busyState =
    .next { busyState with turns := [], prog := [], resp := .data .word 0x0000001C } :=
  ⟨{ legal := test_reference_legal
     registers := witness_registers
     errors := ⟨by decide, by decide, by decide⟩
     render := ⟨fun _ => by decide, fun _ => by decide, fun _ => by decide, fun _ => by decide, fun _ => by decide, fun _ => rfl⟩
     memories := ⟨rfl, rfl, fun c h => (by cases h), fun c h => (by cases h)⟩
     palette := witness_busy_palette }, rfl⟩
theorem witness_ActiveBankIsNeverMutated : (nextOf (step busyState)).isSome = true ∧ busyState.turns.head? ≠ some .rst := by decide
theorem witness_StepKeepsPaletteCurrent : RegistersInRange busyState ∧ PaletteCurrent busyState ∧
    (nextOf (step busyState)).isSome = true := ⟨witness_registers, witness_busy_palette, by decide⟩

/-- PerformWritesTheRenderRegion: untainted, tainted, and not enabled. -/
theorem witness_PerformWritesTheRenderRegion :
    let s : State := { accepted with turns := [.renderEngine] }
    s.turns = .renderEngine :: [] ∧ s.status.renderBusy = true ∧ s.status.palValid = true ∧ s.snap.taint = false ∧ 0 < s.regionLen ∧
    s.taintRender.snap.taint = true ∧ s.taintRender.turns = .renderEngine :: [] ∧
    ({ State.reset with turns := [.renderEngine] } : State).status.renderBusy = false := by decide
theorem witness_RenderedByteIsThePixelChannel : Config.reference.scanAtten ≤ 255 ∧ 3 < 2 * 2 ∧ 1 < 1 * 2 := by decide
theorem witness_BlendIsTheWeightedAverageInLumaChroma : ConfigLegal Config.reference ∧
    mulVec (Config.reference.params .stdA).m ⟨7, 0, 0⟩ = ⟨((7#8).toNat : Rat), ((7#8).toNat : Rat), ((7#8).toNat : Rat)⟩ :=
  ⟨test_reference_legal, by decide +kernel⟩
theorem witness_ScanlinesDarkenOddRowsStrictly : ConfigLegal Config.reference ∧ (0 : Rat) < 1 ∧ attenuate Config.reference 1 = 0 :=
  ⟨test_reference_legal, by decide, by decide⟩
theorem witness_BlendPreservesFlatRegions : ConfigLegal Config.reference := test_reference_legal
theorem witness_PlainRenderIsPaletteLookup : 1 < 2 ∧ 0 < 1 := by decide
theorem witness_RenderIsDeterministic :
    let t : State := { accepted with phase := 5 }
    accepted.cfg = t.cfg ∧ accepted.snap = t.snap ∧ accepted.snap.taint = false ∧
    accepted.bank accepted.status.activeBank = t.bank t.status.activeBank ∧
    (∀ a < accepted.snap.w.toNat * accepted.snap.h.toNat, accepted.readByte .inMem a = t.readByte .inMem a) ∧ 5 < accepted.regionLen :=
  ⟨rfl, rfl, rfl, rfl, fun _ _ => rfl, by decide⟩
theorem witness_FinishedFrameStaysPut :
    let s : State := hosting s0 (.read 4 .word)
    (nextOf (step s)).isSome = true ∧ s.status.renderBusy = false ∧ s.turns.head? ≠ some .rst ∧
    (∀ (addr : Addr) (n : Width) (v : Word) (ps : List HostOp), s.prog ≠ .access (.write addr n v) :: ps) :=
  ⟨by decide, rfl, by decide, fun _ _ _ _ h => by simp [hosting] at h⟩
theorem witness_FatalIsLeftOnlyByReset :
    let s : State := hosting { s0 with status := { s0.status with fatal := true } } (.write 4 .word 0xFFFFFFFF)
    (nextOf (step s)).isSome = true ∧ s.status.fatal = true ∧ s.turns.head? ≠ some .rst := by decide
theorem witness_EnginesComeToRestInFourSteps : State.reset.prog = [] ∧ State.reset.turns = [] := by decide

/-- The run from reset with no host program: the first build, and then nothing more. -/
def bootRun : Nat → State
  | 0 => State.reset
  | 1 => (State.reset.setWaits ⟨⟨0, 1⟩, ⟨0, 0⟩⟩).startBuild
  | _ + 2 => ((State.reset.setWaits ⟨⟨0, 1⟩, ⟨0, 0⟩⟩).startBuild.setWaits ⟨⟨0, 2⟩, ⟨0, 0⟩⟩).completeBuild
theorem witness_EnabledEnginesEventuallyMove : IsRun bootRun ∧ bootRun 0 = State.reset :=
  ⟨fun n => match n with | 0 => rfl | 1 => rfl | _ + 2 => rfl, rfl⟩
theorem witness_BuildSettlesAfterLastRequest : IsRun bootRun ∧ ∀ k ≥ 0, ¬RequestsBuild (bootRun k) := by
  refine ⟨witness_EnabledEnginesEventuallyMove.1, fun k _ h => ?_⟩
  match k with
  | 0 | 1 | _ + 2 => obtain h | ⟨h, -⟩ := h <;> cases h

end Sys2Proof.Tests
end

section
/-! SUPPORT. The register window as the host sees it: what one scheduled host access to a register does, what each register reads
as, where a bit of STATUS stands in its word, and the words right after reset (10_state.md section 2). -/

namespace Sys2Proof.Machine

/-! ### A scheduled host access -/

/-- The host's turn with an access next: the access runs from the state with that line and that turn taken off
(20_memory.md R71). -/
theorem step_of_access (s : State) (a : Access) (ps : List HostOp) (ts : List Agent) (ht : s.turns = .host :: ts)
    (hp : s.prog = .access a :: ps) : step s = ((s.setTurns ts).setProg ps).access a := by
  rw [step_of_turn s .host ts ht, State.agentStep, State.hostStep, State.setTurns_prog, hp]

/-- An aligned word of the register window is mapped to its register (20_memory.md R61, R64). -/
theorem busTarget_register (cfg : Config) (addr : Addr) (hreg : addr.toNat < 0x100) (hal : addr.toNat % 4 = 0) :
    busTarget cfg addr .word = some (.reg addr.toNat) := by
  rw [busTarget, if_pos hreg, if_pos ⟨rfl, hal⟩]

/-- A register read changes the response alone (10_state.md R22, 20_memory.md R67). -/
theorem State.access_readRegister (s : State) (addr : Addr) (hreg : addr.toNat < 0x100) (hal : addr.toNat % 4 = 0) :
    s.access (.read addr .word) = .next (s.setResp (.data .word (s.readReg addr.toNat))) := by
  rw [State.access, State.hostRead, busTarget_register s.cfg addr hreg hal]; rfl

/-- A write to a register other than CMD is `writeReg`, answered OK. -/
theorem State.access_writeRegister (s : State) (addr : Addr) (v : Word) (hreg : addr.toNat < 0x100)
    (hal : addr.toNat % 4 = 0) (hcmd : addr.toNat ≠ 0) :
    s.access (.write addr .word v) = .next ((s.setResp .ok).writeReg addr.toNat v) := by
  rw [State.access, busTarget_register s.cfg addr hreg hal]
  split
  case h_1 h => exact absurd (Target.reg.inj (Option.some.inj h)) hcmd
  case h_2 h => cases h; rfl
  case h_3 h => cases h
  case h_4 h => cases h

/-! ### What a register write does -/

/-- Every register but STATUS and PAL_INDEX ignores a write (10_state.md R34, R35). -/
theorem State.writeReg_ignored (s : State) (off : Nat) (v : Word) (hst : off ≠ 4) (hpal : off ≠ 0x1C) :
    s.writeReg off v = s := by
  unfold State.writeReg
  split
  · exact absurd rfl hst
  · exact absurd rfl hpal
  · rfl

/-- A host write to STATUS (10_state.md R25). -/
theorem State.access_writeStatus (s : State) (v : Word) :
    s.access (.write 4 .word v) = .next ((s.setResp .ok).setStatus (s.status.write v)) :=
  s.access_writeRegister 4 v (by decide) (by decide) (by decide)

/-- A host write to PAL_INDEX (10_state.md R32). -/
theorem State.access_writePalIndex (s : State) (v : Word) :
    s.access (.write 0x1C .word v) = .next ((s.setResp .ok).setPalIndex (v.extractLsb' 0 8)) :=
  s.access_writeRegister 0x1C v (by decide) (by decide) (by decide)

/-- Write-one-to-clear, bit by bit (10_state.md R25). -/
theorem Status.errBitsAfter_getLsbD (st : Status) (v : Word) (k : Nat) (hk : k < 8) :
    (st.errBitsAfter v).getLsbD k = (st.errBits.getLsbD k && !v.getLsbD (16 + k)) := by
  simp [Status.errBitsAfter, hk]

/-! ### What a register reads as -/

@[simp] theorem State.readReg_status (s : State) : s.readReg 4 = s.status.word := rfl
@[simp] theorem State.readReg_ctrl (s : State) : s.readReg 8 = s.ctrl.word := rfl
@[simp] theorem State.readReg_phase (s : State) : s.readReg 0x0C = s.phase.setWidth 32 := rfl
@[simp] theorem State.readReg_sat (s : State) : s.readReg 0x10 = s.sat.setWidth 32 := rfl
@[simp] theorem State.readReg_geom (s : State) : s.readReg 0x14 = s.geomWord := rfl
@[simp] theorem State.readReg_frameLen (s : State) : s.readReg 0x18 = s.frameLen.setWidth 32 := rfl
@[simp] theorem State.readReg_palIndex (s : State) : s.readReg 0x1C = s.palIndex.setWidth 32 := rfl
@[simp] theorem State.readReg_palData (s : State) : s.readReg 0x20 = s.palData := rfl

/-- CMD and the reserved offsets read 0 (10_state.md R22, R34). -/
theorem State.readReg_reserved (s : State) (off : Nat) (h : off = 0 ∨ 0x24 ≤ off) : s.readReg off = 0 := by
  unfold State.readReg
  split
  case h_9 => rfl
  all_goals omega

/-- A flag placed at bit `i` of a word is that bit and no other (00_scope.md R13). -/
theorem bitAt_getLsbD (b : Bool) (i j : Nat) (hi : i < 32) : (bitAt b i).getLsbD j = (b && decide (i = j)) := by
  cases b with
  | false => simp [bitAt]
  | true =>
    rw [bitAt, if_pos rfl, BitVec.getLsbD_ofNat, Nat.testBit_two_pow, Bool.true_and]
    by_cases hij : i = j
    · subst hij; simp [hi]
    · simp [hij]

/-- ERR is bit 7 of the STATUS word: the OR of ERR_BITS (10_state.md R24). -/
theorem Status.word_getLsbD_err (st : Status) : st.word.getLsbD 7 = decide (st.errBits ≠ 0) := by
  simp [Status.word, bitAt_getLsbD, Status.err, -BitVec.getLsbD_eq_getElem]

/-- The word with r, g, b in its low three bytes, as a number (10_state.md R33). -/
theorem rgbWord_toNat (p : Rgb) : (rgbWord p).toNat = p.r.toNat * 65536 + p.g.toNat * 256 + p.b.toNat := by
  have hr := p.r.isLt
  have hg := p.g.isLt
  have hb := p.b.isLt
  have hlow : p.g.toNat * 256 ||| p.b.toNat = p.g.toNat * 256 + p.b.toNat := by
    simpa [mul_comm] using (Nat.two_pow_add_eq_or_of_lt hb p.g.toNat).symm
  have hhigh : p.r.toNat * 65536 ||| (p.g.toNat * 256 + p.b.toNat) = p.r.toNat * 65536 + (p.g.toNat * 256 + p.b.toNat) := by
    simpa [mul_comm] using
      (Nat.two_pow_add_eq_or_of_lt (i := 16) (b := p.g.toNat * 256 + p.b.toNat) (by omega) p.r.toNat).symm
  have hword : (rgbWord p).toNat = (p.r.toNat * 65536 ||| p.g.toNat * 256) ||| p.b.toNat := by
    simp only [rgbWord, BitVec.toNat_or, BitVec.toNat_shiftLeft, Nat.shiftLeft_eq,
      BitVec.toNat_setWidth_of_le (show 8 ≤ 32 by decide)]
    rw [Nat.mod_eq_of_lt (by omega), Nat.mod_eq_of_lt (by omega)]
  rw [hword, Nat.lor_assoc, hlow, hhigh, Nat.add_assoc]

/-- The entry of a palette for an index is the one that stands there. -/
theorem getElem?_palette (pal : Palette) (i : Byte) : pal[i.toNat]? = some (paletteEntry pal i) :=
  Vector.getElem?_eq_getElem i.isLt

/-- PAL_INDEX reads zero-extended (10_state.md R32). -/
theorem State.readReg_palIndex_toNat (s : State) : (s.readReg 0x1C).toNat = s.palIndex.toNat :=
  BitVec.toNat_setWidth_of_le (by decide)

/-- While no palette is valid PAL_DATA reads 0 (10_state.md R33). -/
theorem State.palData_invalid (s : State) (h : s.status.palValid = false) : s.palData = 0 := by
  rw [State.palData, h]; rfl

/-- Once a palette is valid PAL_DATA reads the entry PAL_INDEX of the active bank (10_state.md R33). -/
theorem State.palData_valid (s : State) (h : s.status.palValid = true) :
    s.palData = rgbWord (paletteEntry (s.bank s.status.activeBank) s.palIndex) := if_pos h

/-! ### The words right after reset (10_state.md R42): they do not depend on the configuration -/

theorem resetWith_statusWord (cfg : Config) : (State.resetWith cfg).status.word = 0x00000002 :=
  (by decide : State.reset.status.word = 0x00000002)

theorem resetWith_ctrlWord (cfg : Config) : (State.resetWith cfg).ctrl.word = 0x00000013 :=
  (by decide : State.reset.ctrl.word = 0x00000013)

theorem resetWith_geomWord (cfg : Config) : (State.resetWith cfg).geomWord = 0 :=
  (by decide : State.reset.geomWord = 0)

end Sys2Proof.Machine
end

section
/-! The statements of family 10_state.md about STATUS, reset and the register window. -/

namespace Sys2Proof.Machine

/-- Settles O25: the step is `Status.write` on STATUS, whose fields are R25's; ERR is bit 7 of the word of what is left. -/
theorem statusWriteOneToClear : Obligations.StatusWriteOneToClear := by
  intro s v ps ts ht hp
  have hstep := (step_of_access s _ ps ts ht hp).trans (State.access_writeStatus _ v)
  refine ⟨_, hstep, rfl, ?bits, ?firstCleared, ?firstKept, ?err, rfl⟩
  case bits => exact fun k hk => s.status.errBitsAfter_getLsbD v k hk
  case firstCleared => exact fun hnone => if_pos hnone
  case firstKept => exact fun hleft => if_neg hleft
  case err => exact Status.word_getLsbD_err _

/-- Settles O28: the reset input's turn is `applyReset`; STATUS, CTRL and GEOM have the words of the reset state, PAL_DATA reads 0
because no palette is valid, and every other register's field is its reset value. -/
theorem resetSetsEveryRegister : Obligations.ResetSetsEveryRegister := by
  intro s ts ht
  refine ⟨_, step_of_turn s .rst ts ht, ?_⟩
  rw [State.readReg_status, State.readReg_ctrl, State.readReg_phase, State.readReg_sat, State.readReg_geom,
    State.readReg_frameLen, State.readReg_palIndex, State.readReg_palData]
  exact ⟨resetWith_statusWord s.cfg, resetWith_ctrlWord s.cfg, rfl, rfl, resetWith_geomWord s.cfg, rfl, rfl,
    State.palData_invalid _ rfl, rfl, rfl⟩

/-- Settles O29: the write stores the low byte, and PAL_DATA's word is that of the selected entry. -/
theorem paletteReadBack : Obligations.PaletteReadBack := by
  refine ⟨?store, State.readReg_palIndex_toNat, fun _ => rfl, State.palData_invalid, ?valid⟩
  case store =>
    intro s v ps ts ht hp
    have hstep := (step_of_access s _ ps ts ht hp).trans (State.access_writePalIndex _ v)
    refine ⟨_, hstep, ?_, rfl⟩
    rw [State.readReg_palIndex_toNat, State.setPalIndex_palIndex, BitVec.extractLsb'_toNat, Nat.shiftRight_zero]
  case valid =>
    intro s hv
    refine ⟨_, getElem?_palette _ _, ?_⟩
    rw [State.readReg_palData, State.palData_valid s hv, rgbWord_toNat]

/-- Settles O30: a read sets the response alone, and a write to any other register leaves the block as it is. -/
theorem registerReadsAndIgnoredWrites : Obligations.RegisterReadsAndIgnoredWrites := by
  refine ⟨?reads, State.readReg_reserved, ?ignored, fun st v => ⟨_, _, _, rfl⟩⟩
  case reads =>
    intro s addr ps ts ht hp hreg hal
    rw [step_of_access s _ ps ts ht hp, State.access_readRegister _ addr hreg hal]
    rfl
  case ignored =>
    intro s addr v ps ts ht hp hreg hal hcmd hst hpal
    rw [step_of_access s _ ps ts ht hp, State.access_writeRegister _ addr v hreg hal hcmd,
      State.writeReg_ignored _ _ v hst hpal]
    rfl

end Sys2Proof.Machine
end

section
/-! SUPPORT. Where the address map answers with BUS_ERROR, window by window, and that nothing else of an access faults
(20_memory.md R61, R63, R64, R66). -/

namespace Sys2Proof.Machine

/-! ### The address map, one equation per window (20_memory.md R61) -/

section
variable (cfg : Config) (addr : Addr) (n : Width)

theorem busTarget_regWindow (h : addr.toNat < 0x100) :
    busTarget cfg addr n = if n = .word ∧ addr.toNat % 4 = 0 then some (.reg addr.toNat) else none := if_pos h

theorem busTarget_inWindow (hlo : 0x100000 ≤ addr.toNat) (hhi : addr.toNat < 0x200000) :
    busTarget cfg addr n = windowTarget cfg .inMem addr.toNat (addr.toNat - 0x100000) n.bytes := by
  rw [busTarget, if_neg (by omega), if_pos ⟨hlo, hhi⟩]

theorem busTarget_outWindow (hlo : 0x400000 ≤ addr.toNat) (hhi : addr.toNat < 0x800000) :
    busTarget cfg addr n = windowTarget cfg .outMem addr.toNat (addr.toNat - 0x400000) n.bytes := by
  rw [busTarget, if_neg (by omega), if_neg (by omega), if_pos ⟨hlo, hhi⟩]

theorem busTarget_outsideWindows (hreg : ¬addr.toNat < 0x100)
    (hin : ¬(0x100000 ≤ addr.toNat ∧ addr.toNat < 0x200000))
    (hout : ¬(0x400000 ≤ addr.toNat ∧ addr.toNat < 0x800000)) : busTarget cfg addr n = none := by
  rw [busTarget, if_neg hreg, if_neg hin, if_neg hout]

end

/-- A window refuses exactly the accesses that are misaligned or run past its memory's end (20_memory.md R63, R66). -/
theorem windowTarget_eq_none_iff (cfg : Config) (sp : Space) (a off n : Nat) :
    windowTarget cfg sp a off n = none ↔ ¬(a % n = 0 ∧ off + n ≤ memBytes cfg sp) := by
  simp [windowTarget]

/-- The address map has no target exactly where no window takes the access. -/
theorem busTarget_eq_none_iff (cfg : Config) (addr : Addr) (n : Width) :
    busTarget cfg addr n = none ↔
      ¬((addr.toNat < 0x100 ∧ n = .word ∧ addr.toNat % 4 = 0) ∨
        (0x100000 ≤ addr.toNat ∧ addr.toNat < 0x200000 ∧ addr.toNat % n.bytes = 0 ∧
          addr.toNat + n.bytes ≤ 0x100000 + cfg.inMemBytes) ∨
        (0x400000 ≤ addr.toNat ∧ addr.toNat < 0x800000 ∧ addr.toNat % n.bytes = 0 ∧
          addr.toNat + n.bytes ≤ 0x400000 + cfg.outMemBytes)) := by
  by_cases hreg : addr.toNat < 0x100
  · have hin : ¬0x100000 ≤ addr.toNat := by omega
    have hout : ¬0x400000 ≤ addr.toNat := by omega
    simp [busTarget_regWindow, hreg, hin, hout]
  by_cases hin : 0x100000 ≤ addr.toNat ∧ addr.toNat < 0x200000
  · rw [busTarget_inWindow cfg addr n hin.1 hin.2, windowTarget_eq_none_iff, memBytes]
    omega
  by_cases hout : 0x400000 ≤ addr.toNat ∧ addr.toNat < 0x800000
  · rw [busTarget_outWindow cfg addr n hout.1 hout.2, windowTarget_eq_none_iff, memBytes]
    omega
  · rw [busTarget_outsideWindows cfg addr n hreg hin hout]
    simp only [true_iff]
    omega

/-! ### What can fault -/

/-- No command faults: one that meets an error records it (40_config.md R121). -/
theorem exec_ne_fault (i : Instr) (s : State) (f : Fault) : exec i s ≠ .fault f := by
  intro h
  cases i with
  | setGeom w g =>
    simp only [exec, execSetGeom] at h
    split at h <;> cases h
  | setScale n =>
    simp only [exec, execSetScale] at h
    split at h <;> cases h
  | render =>
    simp only [exec, execRender] at h
    split at h <;> cases h
  | _ => cases h

/-- A word written to CMD never faults: an illegal one records its error (30_encoding.md R102). -/
theorem State.command_ne_fault (s : State) (w : Word) (f : Fault) : s.command w ≠ .fault f := by
  unfold State.command
  split
  · exact exec_ne_fault _ _ f
  · exact fun h => by cases h

/-- A read faults exactly when the address map has no target. -/
theorem State.access_read_fault_iff (s : State) (addr : Addr) (n : Width) :
    s.access (.read addr n) = .fault .busError ↔ busTarget s.cfg addr n = none := by
  rw [State.access, State.hostRead]
  cases busTarget s.cfg addr n <;> simp

/-- A write faults exactly when the address map has no target: neither a command nor any other write faults. -/
theorem State.access_write_fault_iff (s : State) (addr : Addr) (n : Width) (v : Word) :
    s.access (.write addr n v) = .fault .busError ↔ busTarget s.cfg addr n = none := by
  rw [State.access]
  split
  case h_1 hcmd => simp [hcmd, State.command_ne_fault]
  case h_2 hreg => simp [hreg]
  case h_3 hmem => simp [hmem]
  case h_4 hnone => simp [hnone]

end Sys2Proof.Machine
end

section
/-! The statement of family 20_memory.md about BUS_ERROR. -/

namespace Sys2Proof.Machine

/-- Settles O31: read or write, the access faults exactly where the address map has no target. -/
theorem busErrorExactly : Obligations.BusErrorExactly := by
  rintro s a addr n (rfl | ⟨v, rfl⟩)
  · exact (s.access_read_fault_iff addr n).trans (busTarget_eq_none_iff s.cfg addr n)
  · exact (s.access_write_fault_iff addr n v).trans (busTarget_eq_none_iff s.cfg addr n)

end Sys2Proof.Machine
end

section
/-! SUPPORT. Which bits of a word a field depends on, the decoder one equation per OPCODE, and an illegal word written to CMD
(30_encoding.md R91 to R103). -/

namespace Sys2Proof

/-! ### Bit fields and masks -/

/-- Bit `k` of a field is bit `lo + k` of the word (00_scope.md R13). -/
theorem bitField_testBit (v : Word) (hi lo k : Nat) :
    (bitField v hi lo).testBit k = (decide (k < hi + 1 - lo) && v.getLsbD (lo + k)) := by
  rw [bitField, Nat.testBit_mod_two_pow, Nat.testBit_div_two_pow, BitVec.getLsbD, Nat.add_comm k]

/-- A field inside the bits on which two words agree is the same in both. -/
theorem bitField_congr {v v' m : Word} (hagree : v' &&& m = v &&& m) {hi lo : Nat}
    (hmask : ∀ k < hi + 1 - lo, m.getLsbD (lo + k) = true) : bitField v' hi lo = bitField v hi lo := by
  refine Nat.eq_of_testBit_eq fun k => ?_
  rw [bitField_testBit, bitField_testBit]
  by_cases hk : k < hi + 1 - lo
  · have hbit := congrArg (fun x => x.getLsbD (lo + k)) hagree
    simp only [BitVec.getLsbD_and, hmask k hk, Bool.and_true] at hbit
    rw [hbit]
  · rw [decide_eq_false hk, Bool.false_and, Bool.false_and]

/-- A single bit inside the bits on which two words agree is the same in both. -/
theorem bitOf_congr {v v' m : Word} (hagree : v' &&& m = v &&& m) {i : Nat} (hmask : m.getLsbD i = true) :
    bitOf v' i = bitOf v i := by
  rw [bitOf, bitOf, bitField_congr hagree]
  intro k hk
  rwa [show k = 0 by omega]

/-- A word whose field `hi:lo` is zero has nothing outside a mask that leaves out bits of that field alone. -/
theorem and_not_mask_eq_zero {v m : Word} {hi lo : Nat} (hzero : bitField v hi lo = 0)
    (hmask : ∀ j < 32, m.getLsbD j = false → lo ≤ j ∧ j ≤ hi) : v &&& ~~~m = 0 := by
  refine BitVec.eq_of_getLsbD_eq fun j hj => ?_
  rw [BitVec.getLsbD_and, BitVec.getLsbD_not, BitVec.ofNat_eq_ofNat, BitVec.getLsbD_zero]
  cases hm : m.getLsbD j with
  | true => simp
  | false =>
    obtain ⟨hlo, hhi⟩ := hmask j hj hm
    have hbit := bitField_testBit v hi lo (j - lo)
    rw [hzero, Nat.zero_testBit, decide_eq_true (by omega), Bool.true_and, Nat.add_sub_cancel' hlo] at hbit
    rw [← hbit, Bool.false_and]

/-- The decoder's single bit is the bit of the word. -/
theorem bitOf_eq_getLsbD (v : Word) (i : Nat) : bitOf v i = v.getLsbD i := by
  have hbit := bitField_testBit v i i 0
  rw [Nat.testBit_zero, Nat.mod_eq_of_lt (by simpa using bitField_lt v i i), decide_eq_true (p := 0 < i + 1 - i) (by omega),
    Bool.true_and] at hbit
  exact hbit

/-- The standard of bit 0 (30_encoding.md R92). -/
theorem ofBit_bitOf (v : Word) : Std.ofBit (bitOf v 0) = if bitField v 0 0 = 1 then .stdB else .stdA := by
  by_cases h : bitField v 0 0 = 1 <;> simp [bitOf, h, Std.ofBit]

/-- The decoder's sign extension is that of the low 16 bits (30_encoding.md R96). -/
theorem sext16_bitField (v : Word) : sext16 (bitField v 15 0) = (v.setWidth 16).toInt := by
  have hlow : (v.setWidth 16).toNat = bitField v 15 0 := by simp [bitField]
  rw [BitVec.toInt_eq_toNat_cond, hlow, sext16]
  norm_num
  split <;> split <;> omega

/-! ### The decoder, one equation per OPCODE (30_encoding.md R99) -/

section
variable (w : Word)

theorem decode_nop (h : bitField w 31 24 = 0x00) : decode w = .ok .nop := by simp only [decode, h]
theorem decode_setStd (h : bitField w 31 24 = 0x01) : decode w = .ok (.setStd (Std.ofBit (bitOf w 0))) := by simp only [decode, h]
theorem decode_setGeom (h : bitField w 31 24 = 0x02) :
    decode w = .ok (.setGeom (bitField w 23 12) (bitField w 11 0)) := by simp only [decode, h]
theorem decode_setFrameLen (h : bitField w 31 24 = 0x03) : decode w = .ok (.setFrameLen (bitField w 23 0)) := by
  simp only [decode, h]
theorem decode_setPhase (h : bitField w 31 24 = 0x10) : decode w = .ok (.setPhase (bitField w 15 0)) := by simp only [decode, h]
theorem decode_adjPhase (h : bitField w 31 24 = 0x11) : decode w = .ok (.adjPhase (sext16 (bitField w 15 0))) := by
  simp only [decode, h]
theorem decode_setSat (h : bitField w 31 24 = 0x12) : decode w = .ok (.setSat (sext16 (bitField w 15 0))) := by
  simp only [decode, h]
theorem decode_adjSat (h : bitField w 31 24 = 0x13) : decode w = .ok (.adjSat (sext16 (bitField w 15 0))) := by
  simp only [decode, h]
theorem decode_rebuild (h : bitField w 31 24 = 0x14) : decode w = .ok .rebuild := by simp only [decode, h]
theorem decode_toggleScan (h : bitField w 31 24 = 0x20) : decode w = .ok .toggleScan := by simp only [decode, h]
theorem decode_toggleBlend (h : bitField w 31 24 = 0x21) : decode w = .ok .toggleBlend := by simp only [decode, h]
theorem decode_toggleLoop (h : bitField w 31 24 = 0x22) : decode w = .ok .toggleLoop := by simp only [decode, h]
theorem decode_setFilters (h : bitField w 31 24 = 0x23) :
    decode w = .ok (.setFilters (bitOf w 0) (bitOf w 1) (bitOf w 2)) := by simp only [decode, h]
theorem decode_setScale (h : bitField w 31 24 = 0x24) : decode w = .ok (.setScale (bitField w 3 0)) := by simp only [decode, h]
theorem decode_render (h : bitField w 31 24 = 0x30) : decode w = .ok .render := by simp only [decode, h]

/-- A word is the command of its OPCODE's row, or illegal (30_encoding.md R100). -/
theorem decode_ok_or_illegal :
    (∃ i : Instr, decode w = .ok i ∧ i.opcode = bitField w 31 24) ∨
      decode w = .error (.illegalOpcode (bitField w 31 24)) := by
  unfold decode
  split
  case h_16 => exact Or.inr rfl
  all_goals exact Or.inl ⟨_, rfl, Eq.symm ‹_›⟩

/-- Every command stands in the map of 30_encoding.md R99. -/
theorem Instr.opcode_mem (i : Instr) :
    i.opcode ∈ [0x00, 0x01, 0x02, 0x03, 0x10, 0x11, 0x12, 0x13, 0x14, 0x20, 0x21, 0x22, 0x23, 0x24, 0x30] := by
  cases i <;> simp [Instr.opcode]

/-- An OPCODE outside the map is no command's, so its word is illegal (30_encoding.md R102). -/
theorem decode_illegal
    (h : bitField w 31 24 ∉ [0x00, 0x01, 0x02, 0x03, 0x10, 0x11, 0x12, 0x13, 0x14, 0x20, 0x21, 0x22, 0x23, 0x24, 0x30]) :
    decode w = .error (.illegalOpcode (bitField w 31 24)) := by
  refine (decode_ok_or_illegal w).resolve_left ?_
  rintro ⟨i, -, hop⟩
  exact h (hop ▸ i.opcode_mem)

end

/-! ### The bits a command ignores (30_encoding.md R91 to R98, R103) -/

/-- Every format uses the OPCODE bits. -/
theorem Instr.usedMask_opcode (i : Instr) : ∀ k < 31 + 1 - 24, i.usedMask.getLsbD (24 + k) = true := by
  cases i <;> simp only [Instr.usedMask] <;> decide

/-- A word that agrees with a command's word on the bits its format uses is the same command (30_encoding.md R103): it has the same
OPCODE, and each operand field lies inside the mask. -/
theorem decode_congr_usedMask {w w' : Word} {i : Instr} (hw : decode w = .ok i)
    (hagree : w' &&& i.usedMask = w &&& i.usedMask) : decode w' = .ok i := by
  have hop := bitField_congr hagree i.usedMask_opcode
  rcases decode_cases w with ⟨h, e⟩ | ⟨h, e⟩ | ⟨h, e⟩ | ⟨h, e⟩ | ⟨h, e⟩ | ⟨h, e⟩ | ⟨h, e⟩ | ⟨h, e⟩ | ⟨h, e⟩ | ⟨h, e⟩ | ⟨h, e⟩ |
    ⟨h, e⟩ | ⟨h, e⟩ | ⟨h, e⟩ | ⟨h, e⟩ | ⟨-, e⟩ <;> cases e.symm.trans hw <;> rw [h] at hop
  · exact decode_nop w' hop
  · rw [decode_setStd w' hop, bitOf_congr (m := 0xFF000001) hagree (by decide)]
  · rw [decode_setGeom w' hop, bitField_congr (m := 0xFFFFFFFF) hagree (hi := 23) (by decide),
      bitField_congr (m := 0xFFFFFFFF) hagree (hi := 11) (by decide)]
  · rw [decode_setFrameLen w' hop, bitField_congr (m := 0xFFFFFFFF) hagree (by decide)]
  · rw [decode_setPhase w' hop, bitField_congr (m := 0xFF00FFFF) hagree (by decide)]
  · rw [decode_adjPhase w' hop, bitField_congr (m := 0xFF00FFFF) hagree (by decide)]
  · rw [decode_setSat w' hop, bitField_congr (m := 0xFF00FFFF) hagree (by decide)]
  · rw [decode_adjSat w' hop, bitField_congr (m := 0xFF00FFFF) hagree (by decide)]
  · exact decode_rebuild w' hop
  · exact decode_toggleScan w' hop
  · exact decode_toggleBlend w' hop
  · exact decode_toggleLoop w' hop
  · rw [decode_setFilters w' hop, bitOf_congr (m := 0xFF000007) hagree (i := 0) (by decide),
      bitOf_congr (m := 0xFF000007) hagree (i := 1) (by decide), bitOf_congr (m := 0xFF000007) hagree (i := 2) (by decide)]
  · rw [decode_setScale w' hop, bitField_congr (m := 0xFF00000F) hagree (by decide)]
  · exact decode_render w' hop

/-- The words of the four 16-bit operand forms have zero in bits 23:16 (30_encoding.md R95, R96). -/
theorem imm16_ignored_zero (op n : Nat) (hop : op < 256) (hn : n < 65536) :
    BitVec.ofNat 32 (op * 16777216 + n) &&& ~~~(0xFF00FFFF : Word) = 0 := by
  refine and_not_mask_eq_zero (hi := 23) (lo := 16) ?_ (by decide)
  rw [bitField_ofNat _ _ _ (by omega)]
  omega

/-- An assembler writes zero in every ignored bit (30_encoding.md R103): each format ignores no bits, or the bits from some bit up
to 23. -/
theorem encode_ignored_zero (i : Instr) (hwf : i.wellFormed = true) : encode i &&& ~~~i.usedMask = 0 := by
  have hnone : ~~~(0xFFFFFFFF : Word) = 0#32 := by decide
  cases i with
  | setStd s => cases s <;> decide
  | setGeom w h => rw [Instr.usedMask, hnone, BitVec.and_zero]; rfl
  | setFrameLen len => rw [Instr.usedMask, hnone, BitVec.and_zero]; rfl
  | setPhase imm => exact imm16_ignored_zero 0x10 imm (by decide) (Nat.lt_succ_of_le (of_decide_eq_true hwf))
  | adjPhase simm => exact imm16_ignored_zero 0x11 _ (by decide) (field16_lt simm)
  | setSat simm => exact imm16_ignored_zero 0x12 _ (by decide) (field16_lt simm)
  | adjSat simm => exact imm16_ignored_zero 0x13 _ (by decide) (field16_lt simm)
  | setFilters scan blend loop => cases scan <;> cases blend <;> cases loop <;> decide
  | setScale n =>
    have hn : n ≤ 15 := of_decide_eq_true hwf
    refine and_not_mask_eq_zero (m := 0xFF00000F) (hi := 23) (lo := 4) ?_ (by decide)
    rw [encode, bitField_ofNat _ _ _ (by omega)]
    omega
  | nop | rebuild | toggleScan | toggleBlend | toggleLoop | render => decide

end Sys2Proof

namespace Sys2Proof.Machine

/-! ### A word written to CMD (10_state.md R23) -/

/-- A host write to CMD hands the word to the command unit, answered OK. -/
theorem State.access_writeCmd (s : State) (w : Word) : s.access (.write 0 .word w) = (s.setResp .ok).command w := by
  rw [State.access, busTarget_register s.cfg 0 (by decide) (by decide)]; rfl

/-- An illegal word records code 1 (30_encoding.md R102). -/
theorem State.command_of_decode_error (s : State) {w : Word} {e : DecodeError} (h : decode w = .error e) :
    s.command w = .next (s.recordError .illegalOpcode) := by
  rw [State.command, h]

/-- Recording code 1 leaves FATAL as it is (60_exceptions.md R222). -/
theorem Status.record_illegalOpcode (st : Status) :
    st.record .illegalOpcode =
      { st with errFirst := if st.errBits = 0 then 1 else st.errFirst, errBits := st.errBits ||| 0x01 } := by
  have hfatal : (st.fatal || decide (ErrorCode.illegalOpcode = .geometryMismatch)) = st.fatal := Bool.or_false _
  rw [Status.record, hfatal]; rfl

end Sys2Proof.Machine
end

section
/-! The statements of family 30_encoding.md about ignored bits, the opcode map and illegal words. -/

namespace Sys2Proof.Machine

/-- Settles O3: a command's operand fields lie inside its mask, the assembler's word is zero outside it, and the decoder's last
case is the illegal word. -/
theorem reservedBitsAreIgnored : Obligations.ReservedBitsAreIgnored :=
  ⟨fun _ _ _ => decode_congr_usedMask, encode_ignored_zero, decode_ok_or_illegal⟩

/-- Settles O4: the decoder's equation of each OPCODE, its bit and sign-extended operands read as core's own. -/
theorem decodingFollowsTheOpcodeMap : Obligations.DecodingFollowsTheOpcodeMap := by
  intro w
  rw [← ofBit_bitOf, ← sext16_bitField, ← bitOf_eq_getLsbD, ← bitOf_eq_getLsbD, ← bitOf_eq_getLsbD]
  exact ⟨decode_nop w, decode_setStd w, decode_setGeom w, decode_setFrameLen w, decode_setPhase w, decode_adjPhase w,
    decode_setSat w, decode_adjSat w, decode_rebuild w, decode_toggleScan w, decode_toggleBlend w, decode_toggleLoop w,
    decode_setFilters w, decode_setScale w, decode_render w, decode_illegal w⟩

/-- Settles O6: the write reaches the command unit, the word decodes to no command, and recording code 1 changes STATUS alone. -/
theorem illegalWordOnlyRecordsCodeOne : Obligations.IllegalWordOnlyRecordsCodeOne := by
  intro s w ps ts ht hp hop
  rw [step_of_access s _ ps ts ht hp, State.access_writeCmd, State.command_of_decode_error _ (decode_illegal w hop),
    State.recordError, Status.record_illegalOpcode]
  rfl

end Sys2Proof.Machine
end

section
/-! SUPPORT. What every command keeps, for any operands, well formed or not (40_config.md R121, 60_exceptions.md R223), and the
configuration commands one equation per outcome. -/

namespace Sys2Proof.Machine

/-! ### What every command keeps -/

/-- How a command completes (40_config.md R121, 60_exceptions.md R223): only registers and the render snapshot can change, an error
is recorded alone or not at all, and the snapshot of an accepted RENDER stays. -/
structure CompletesPrecisely (s t : State) : Prop where
  registersOnly : t = { s with
    status := t.status, ctrl := t.ctrl, phase := t.phase, sat := t.sat, geomW := t.geomW, geomH := t.geomH,
    frameLen := t.frameLen, snap := t.snap }
  errors : (∃ c : ErrorCode, t = s.recordError c) ∨
    (t.status.errBits = s.status.errBits ∧ t.status.errFirst = s.status.errFirst ∧ t.status.fatal = s.status.fatal)
  snapshot : s.status.renderBusy = true → t.snap = s.snap

/-- Recording an error is precise: STATUS alone changes (60_exceptions.md R223). -/
theorem CompletesPrecisely.recordError (s : State) (c : ErrorCode) : CompletesPrecisely s (s.recordError c) :=
  ⟨rfl, .inl ⟨c, rfl⟩, fun _ => rfl⟩

/-- An accepted RENDER found RENDER_BUSY = 0, so the snapshot it replaces is no accepted RENDER's (42_render.md R190). -/
theorem CompletesPrecisely.acceptRender {s : State} (h : s.renderCheck = none) : CompletesPrecisely s s.acceptRender := by
  obtain ⟨-, hidle, -⟩ := s.renderCheck_eq_none.1 h
  exact ⟨rfl, .inr ⟨rfl, rfl, rfl⟩, fun hbusy => absurd (hidle.symm.trans hbusy) Bool.false_ne_true⟩

/-- Every command completes, precisely: the three with checks record one error or act, the others write registers and leave the
error state and the snapshot. -/
theorem exec_completesPrecisely (i : Instr) (s : State) : ∃ t, exec i s = .next t ∧ CompletesPrecisely s t := by
  cases i with
  | setGeom w h =>
    simp only [exec, execSetGeom]
    split
    · exact ⟨_, rfl, .recordError s _⟩
    · exact ⟨_, rfl, rfl, .inr ⟨rfl, rfl, rfl⟩, fun _ => rfl⟩
  | setScale n =>
    simp only [exec, execSetScale]
    split
    · exact ⟨_, rfl, .recordError s _⟩
    · exact ⟨_, rfl, rfl, .inr ⟨rfl, rfl, rfl⟩, fun _ => rfl⟩
  | render =>
    simp only [exec, execRender]
    split
    next c _ => exact ⟨_, rfl, .recordError s c⟩
    next haccept => exact ⟨_, rfl, .acceptRender haccept⟩
  | _ => exact ⟨_, rfl, rfl, .inr ⟨rfl, rfl, rfl⟩, fun _ => rfl⟩

/-- Only registers changed, so every byte of both memories is what it was. -/
theorem CompletesPrecisely.sameMemory {s t : State} (h : CompletesPrecisely s t) : SameMemory s t :=
  fun sp a => congrArg (·.readByte sp a) h.registersOnly

/-- No command changes a byte of memory. -/
theorem exec_sameMemory {i : Instr} {s t : State} (h : exec i s = .next t) : SameMemory s t := by
  obtain ⟨u, hu, hprecise⟩ := exec_completesPrecisely i s
  cases hu.symm.trans h
  exact hprecise.sameMemory

/-! ### The configuration commands -/

theorem exec_nop (s : State) : exec .nop s = .next s := rfl

theorem exec_setStd (std : Std) (s : State) :
    exec (.setStd std) s = .next (s.setCtrl { s.ctrl with std := std }).requestBuild := rfl

theorem exec_setFrameLen (len : Nat) (s : State) :
    exec (.setFrameLen len) s = .next (s.setFrameLen (lengthField len)) := rfl

/-- The operand ranges of SET_GEOM (30_encoding.md R105). -/
theorem setGeom_wellFormed_iff (w h : Nat) : (Instr.setGeom w h).wellFormed = true ↔ w ≤ 4095 ∧ h ≤ 4095 := by
  simp [Instr.wellFormed]

/-- SET_GEOM of two non-zero operands stores both (40_config.md R124). -/
theorem exec_setGeom_store (s : State) {w h : Nat} (hwf : (Instr.setGeom w h).wellFormed = true) (hw : w ≠ 0) (hh : h ≠ 0) :
    exec (.setGeom w h) s = .next (s.setGeom (geomField w) (geomField h)) := by
  obtain ⟨hwmax, hhmax⟩ := (setGeom_wellFormed_iff w h).1 hwf
  refine if_neg ?_
  rw [geomField_eq_zero w hwmax, geomField_eq_zero h hhmax]
  exact not_or.2 ⟨hw, hh⟩

/-- SET_GEOM with a zero operand records BAD_OPERAND and nothing else (40_config.md R124). -/
theorem exec_setGeom_badOperand (s : State) {w h : Nat} (hzero : w = 0 ∨ h = 0) :
    exec (.setGeom w h) s = .next (s.recordError .badOperand) :=
  if_pos (hzero.imp (congrArg geomField) (congrArg geomField))

end Sys2Proof.Machine
end

section
/-! The statements of family 40_config.md: the configuration commands, and what holds of every command. -/

namespace Sys2Proof.Machine

/-- Settles O23: every command completes precisely, and what is no register or render snapshot is then the field of the state
before. -/
theorem commandsCompletePreciselyAndKeepSnapshots : Obligations.CommandsCompletePreciselyAndKeepSnapshots := by
  intro i s
  obtain ⟨t, hexec, hprecise⟩ := exec_completesPrecisely i s
  have keeps {α : Type} (field : State → α) := congrArg field hprecise.registersOnly
  exact ⟨t, hexec, hprecise.errors, keeps State.cfg, keeps State.pal0, keeps State.pal1, keeps State.build,
    hprecise.snapshot, keeps State.inMem, keeps State.outMem, keeps State.palIndex, keeps State.resp, keeps State.prog,
    keeps State.turns, keeps State.waits, keeps State.draws, keeps State.resets, hprecise.sameMemory⟩

/-- Settles O8: the decoder's first row, and `execNop` answers its own state. -/
theorem nopChangesNothing : Obligations.NopChangesNothing := ⟨decode_nop, exec_nop⟩

/-- Settles O9: the operand is bit 0, and the command writes CTRL and then requests a build. -/
theorem setStdResult : Obligations.SetStdResult := by
  refine ⟨?decodes, fun s std => ⟨_, exec_setStd std s, exec_sameMemory (exec_setStd std s), rfl⟩⟩
  case decodes =>
    intro w hop
    rw [decode_setStd w hop, ofBit_bitOf]

/-- Settles O10: a well-formed operand fits its 12-bit field, so the field is zero exactly when the operand is. -/
theorem setGeomResult : Obligations.SetGeomResult := by
  refine ⟨decode_setGeom, ?store, fun s _ _ _ => exec_setGeom_badOperand s⟩
  case store =>
    intro s w h hwf hw hh
    have hexec := exec_setGeom_store s hwf hw hh
    obtain ⟨hwmax, hhmax⟩ := (setGeom_wellFormed_iff w h).1 hwf
    exact ⟨_, hexec, geomField_toNat w hwmax, geomField_toNat h hhmax, exec_sameMemory hexec, rfl⟩

/-- Settles O11: every well-formed length fits the 24 bits of FRAME_LEN. -/
theorem setFrameLenResult : Obligations.SetFrameLenResult := by
  refine ⟨decode_setFrameLen, fun s len hwf => ?_⟩
  have hexec := exec_setFrameLen len s
  exact ⟨_, hexec, lengthField_toNat len (of_decide_eq_true hwf), exec_sameMemory hexec, rfl⟩

end Sys2Proof.Machine
end

section
/-! SUPPORT. The phase and saturation commands: what their operands store, one equation per command, and what a palette-input
command and every other command do to the build request and to PHASE (41_palette.md section 1, R162). -/

namespace Sys2Proof.Machine

/-! ### What the operands store -/

/-- SET_PHASE stores the operand modulo 36000 (41_palette.md R140). -/
theorem phaseSet_toNat (imm : Nat) : (phaseSet imm).toNat = imm % 36000 := by
  have hmod := phaseMod_toNat imm
  rw [phaseSet]
  omega

/-- ADJ_PHASE stores the mathematical remainder of the sum (41_palette.md R142). -/
theorem phaseAdjust_toNat (phase : BitVec 16) (d : Int) : ((phaseAdjust phase d).toNat : Int) = (phase.toNat + d) % 36000 :=
  phaseMod_toNat _

/-- The operand range of SET_SAT (30_encoding.md R105). -/
theorem setSat_wellFormed_iff (q : Int) : (Instr.setSat q).wellFormed = true ↔ -32768 ≤ q ∧ q ≤ 32767 := by
  simp [Instr.wellFormed]

/-! ### One equation per command -/

section
variable (s : State)

theorem exec_setPhase (imm : Nat) : exec (.setPhase imm) s = .next (s.setPhase (phaseSet imm)).requestBuild := rfl

theorem exec_adjPhase (d : Int) : exec (.adjPhase d) s = .next (s.setPhase (phaseAdjust s.phase d)).requestBuild := rfl

theorem exec_setSat (q : Int) : exec (.setSat q) s = .next (s.setSat (satSet q)).requestBuild := rfl

theorem exec_adjSat (d : Int) : exec (.adjSat d) s = .next (s.setSat (satAdjust s.sat d)).requestBuild := rfl

theorem exec_rebuild : exec .rebuild s = .next s.requestBuild := rfl

end

/-! ### Palette-input commands and the others -/

/-- A palette-input command writes at most CTRL, PHASE and SAT, PHASE by the remainder, and requests a build
(41_palette.md R162). -/
theorem exec_paletteInput {i : Instr} (hi : isPaletteInput i = true) (s : State) :
    ∃ (c : Ctrl) (p q : BitVec 16), (p = s.phase ∨ ∃ x, p = phaseMod x) ∧
      exec i s = .next (((s.setCtrl c).setPhase p).setSat q).requestBuild := by
  cases i with
  | setStd std => exact ⟨{ s.ctrl with std := std }, s.phase, s.sat, .inl rfl, rfl⟩
  | setPhase imm => exact ⟨s.ctrl, phaseSet imm, s.sat, .inr ⟨_, rfl⟩, rfl⟩
  | adjPhase d => exact ⟨s.ctrl, phaseAdjust s.phase d, s.sat, .inr ⟨_, rfl⟩, rfl⟩
  | setSat q => exact ⟨s.ctrl, s.phase, satSet q, .inl rfl, rfl⟩
  | adjSat d => exact ⟨s.ctrl, s.phase, satAdjust s.sat d, .inl rfl, rfl⟩
  | rebuild => exact ⟨s.ctrl, s.phase, s.sat, .inl rfl, rfl⟩
  | nop | setGeom | setFrameLen | toggleScan | toggleBlend | toggleLoop | setFilters | setScale | render => cases hi

/-- No other command touches the build request or PHASE, whether it records an error or acts. -/
theorem exec_notPaletteInput {i : Instr} {s t : State} (hi : isPaletteInput i = false) (h : exec i s = .next t) :
    t.status.buildPending = s.status.buildPending ∧ t.phase = s.phase := by
  cases i with
  | setGeom w g =>
    simp only [exec, execSetGeom] at h
    split at h <;> cases h <;> exact ⟨rfl, rfl⟩
  | setScale n =>
    simp only [exec, execSetScale] at h
    split at h <;> cases h <;> exact ⟨rfl, rfl⟩
  | render =>
    simp only [exec, execRender] at h
    split at h <;> cases h <;> exact ⟨rfl, rfl⟩
  | nop | setFrameLen | toggleScan | toggleBlend | toggleLoop | setFilters => cases h; exact ⟨rfl, rfl⟩
  | setStd | setPhase | adjPhase | setSat | adjSat | rebuild => cases hi

/-- A command sets BUILD_PENDING exactly when it is a palette input, and never clears it (41_palette.md R162). -/
theorem exec_buildPending {i : Instr} {s t : State} (h : exec i s = .next t) :
    t.status.buildPending = (s.status.buildPending || isPaletteInput i) := by
  cases hi : isPaletteInput i with
  | true =>
    obtain ⟨c, p, q, -, hexec⟩ := exec_paletteInput hi s
    cases hexec.symm.trans h
    exact (Bool.or_true _).symm
  | false => rw [(exec_notPaletteInput hi h).1, Bool.or_false]

/-- Every command keeps PHASE in 0..35999 (41_palette.md R158): the remainder is in that range. -/
theorem exec_phase_lt {i : Instr} {s t : State} (hs : s.phase.toNat < 36000) (h : exec i s = .next t) :
    t.phase.toNat < 36000 := by
  cases hi : isPaletteInput i with
  | true =>
    obtain ⟨c, p, q, hp, hexec⟩ := exec_paletteInput hi s
    cases hexec.symm.trans h
    obtain rfl | ⟨x, rfl⟩ := hp
    · exact hs
    · exact phaseMod_lt x
  | false => rwa [(exec_notPaletteInput hi h).2]

/-! ### Host accesses that are no command -/

/-- No register write touches BUILD_PENDING (10_state.md R25). -/
theorem State.writeReg_buildPending (s : State) (off : Nat) (v : Word) :
    (s.writeReg off v).status.buildPending = s.status.buildPending := by
  unfold State.writeReg
  split <;> rfl

/-- No memory write touches BUILD_PENDING, render hazard or not (20_memory.md R70). -/
theorem State.hostWrite_buildPending (s : State) (sp : Space) (off n : Nat) (v : Word) :
    (s.hostWrite sp off n v).status.buildPending = s.status.buildPending := by
  rw [State.hostWrite_status]
  split <;> rfl

/-- Every host access but a word written to CMD leaves BUILD_PENDING as it was (41_palette.md R162). -/
theorem State.access_buildPending {s t : State} {a : Access} (hcmd : ∀ v, a ≠ .write 0 .word v)
    (h : s.access a = .next t) : t.status.buildPending = s.status.buildPending := by
  cases a with
  | read addr n =>
    simp only [State.access, State.hostRead] at h
    cases hb : busTarget s.cfg addr n with
    | none => rw [hb] at h; cases h
    | some tgt => rw [hb] at h; cases h; rfl
  | write addr n v =>
    simp only [State.access] at h
    split at h
    case h_1 hb =>
      obtain ⟨haddr, -, -, rfl⟩ := busTarget_reg _ _ _ _ hb
      obtain rfl : addr = 0 := BitVec.eq_of_toNat_eq haddr.symm
      exact absurd rfl (hcmd v)
    case h_2 => cases h; exact State.writeReg_buildPending _ _ v
    case h_3 => cases h; exact State.hostWrite_buildPending _ _ _ _ v
    case h_4 => cases h

end Sys2Proof.Machine
end

section
/-! SUPPORT. The build engine: its step in each state it moves in, and everything completion leaves unchanged
(41_palette.md section 3). -/

namespace Sys2Proof.Machine

/-- A busy engine completes (41_palette.md R161). -/
theorem State.buildStep_of_busy {s : State} (hbusy : s.status.buildBusy = true) : s.buildStep = s.completeBuild :=
  if_pos hbusy

/-- An idle engine with a build requested starts it (41_palette.md R160). -/
theorem State.buildStep_of_pending {s : State} (hpending : s.status.buildPending = true)
    (hidle : s.status.buildBusy = false) : s.buildStep = s.startBuild := by
  rw [State.buildStep, hidle, if_neg Bool.false_ne_true, if_pos hpending]

theorem Bank.other_ne (b : Bank) : b.other ≠ b := by cases b <;> decide

/-- Writing a bank changes the banks alone. -/
theorem State.setBank_eq (s : State) (k : Bank) (p : Palette) :
    s.setBank k p = { s with pal0 := (s.setBank k p).pal0, pal1 := (s.setBank k p).pal1 } := by
  cases k <;> rfl

/-- Completion changes the banks, ACTIVE_BANK, PAL_VALID and BUILD_BUSY alone (41_palette.md R161). -/
theorem State.completeBuild_eq (s : State) :
    s.completeBuild = { s with
      pal0 := s.completeBuild.pal0, pal1 := s.completeBuild.pal1
      status := { s.status with activeBank := s.status.activeBank.other, palValid := true, buildBusy := false } } :=
  congrArg (·.setStatus s.completeBuild.status) (s.setBank_eq s.status.activeBank.other s.builtTable)

end Sys2Proof.Machine
end

section
/-! SUPPORT. The palette function: the chroma angle in the reals, entries without chroma, and angles a whole number of turns apart
(41_palette.md section 2). -/

namespace Sys2Proof.Machine

/-! ### Entries without chroma -/

/-- The matrix of either standard of a legal configuration has first column 1 (00_scope.md R10). -/
theorem ConfigLegal.column {cfg : Config} (hlegal : ConfigLegal cfg) (s : Std) : firstColumnOnes (cfg.params s).m := by
  cases s with
  | stdA => exact hlegal.columnA
  | stdB => exact hlegal.columnB

theorem lumaLevel_le (i : Nat) : lumaLevel i ≤ 15 := Nat.le_of_lt_succ (Nat.mod_lt i (by decide))

/-- Saturation 0 leaves no chroma (41_palette.md R159). -/
theorem chromaMagnitude_sat_zero (cfg : Config) (i : Nat) : chromaMagnitude cfg 0 i = 0 := by
  simp [chromaMagnitude]

/-- Luma level 0 has no chroma (41_palette.md R153). -/
theorem chromaMagnitude_luma_zero {cfg : Config} (hzero : chromaLevel cfg 0 = 0) (q : BitVec 16) {i : Nat}
    (hi : lumaLevel i = 0) : chromaMagnitude cfg q i = 0 := by
  rw [chromaMagnitude, hi, hzero, mul_zero]

/-- Without chroma a channel is the luma alone: `255 · l/15 = 17·l`, an integer, so rounding keeps it. -/
theorem channel_gray {row : Vec3} (hrow : row.x = 1) {l : Nat} (hl : l ≤ 15) (θ : Rat) :
    channel row ((l : Rat) / 15) 0 θ = BitVec.ofNat 8 (17 * l) := by
  have hfloor : ⌊255 * (((l : Rat) / 15 : Rat) : ℝ) + 1 / 2⌋ = 17 * (l : Int) := by
    rw [Int.floor_eq_iff]
    push_cast
    constructor <;> linarith
  have hclamp : clamp (17 * (l : Int)) 0 255 = 17 * l := by unfold clamp; omega
  have hchannel := channel_toNat row ((l : Rat) / 15) 0 θ
  simp only [hrow, Rat.cast_one, one_mul, Rat.cast_zero, zero_mul, mul_zero, add_zero] at hchannel
  rw [hfloor, hclamp] at hchannel
  rw [← BitVec.toNat_inj, BitVec.toNat_ofNat, Nat.mod_eq_of_lt (by omega)]
  exact_mod_cast hchannel

/-- An entry without chroma is the gray of its luma level (41_palette.md R153, R159). -/
theorem buildEntry_gray {cfg : Config} (hlegal : ConfigLegal cfg) (s : Std) (p : BitVec 16) {q : BitVec 16} {i : Nat}
    (hchroma : chromaMagnitude cfg q i = 0) :
    buildEntry cfg s p q i =
      ⟨BitVec.ofNat 8 (17 * lumaLevel i), BitVec.ofNat 8 (17 * lumaLevel i), BitVec.ofNat 8 (17 * lumaLevel i)⟩ := by
  obtain ⟨h0, h1, h2⟩ := hlegal.column s
  have hl := lumaLevel_le i
  rw [buildEntry, hchroma, lumaValue, channel_gray h0 hl, channel_gray h1 hl, channel_gray h2 hl]

/-! ### The chroma angle -/

/-- Phases equal modulo 36000 centidegrees give angles a whole number of turns apart. -/
theorem chromaAngle_turns (cfg : Config) (s : Std) {p p' : BitVec 16} (i : Nat) (h : p.toNat % 36000 = p'.toNat % 36000) :
    ∃ k : ℤ, (chromaAngle cfg s p i : ℝ) * Real.pi / 180 = (chromaAngle cfg s p' i : ℝ) * Real.pi / 180 + k * (2 * Real.pi) := by
  obtain ⟨k, hk⟩ : ∃ k : ℤ, (p.toNat : ℤ) = p'.toNat + 36000 * k :=
    ⟨p.toNat / 36000 - p'.toNat / 36000, by omega⟩
  have hreal : (p.toNat : ℝ) = p'.toNat + 36000 * k := by exact_mod_cast hk
  refine ⟨k, ?_⟩
  simp only [chromaAngle]
  push_cast
  rw [hreal]
  ring

/-- Entries depend on the phase only modulo a turn (41_palette.md R158): a channel sees the angle through cosine and sine. -/
theorem buildEntry_phase_congr (cfg : Config) (s : Std) {p p' : BitVec 16} (q : BitVec 16) (i : Nat)
    (h : p.toNat % 36000 = p'.toNat % 36000) : buildEntry cfg s p q i = buildEntry cfg s p' q i := by
  obtain ⟨k, hk⟩ := chromaAngle_turns cfg s i h
  have hcos := hk ▸ Real.cos_add_int_mul_two_pi ((chromaAngle cfg s p' i : ℝ) * Real.pi / 180) k
  have hsin := hk ▸ Real.sin_add_int_mul_two_pi ((chromaAngle cfg s p' i : ℝ) * Real.pi / 180) k
  have hchannel (row : Vec3) (y c : Rat) := channel_congr row y c _ _ hcos hsin
  simp only [buildEntry, hchannel]

/-- One channel of entry `i` in the reals (41_palette.md R152 to R157). -/
theorem channel_toNat_chromaAngle (cfg : Config) (s : Std) (p q : BitVec 16) (i : Nat) (row : Vec3) :
    ((channel row (lumaValue i) (chromaMagnitude cfg q i) (chromaAngle cfg s p i)).toNat : Int) =
      let θ : ℝ := ((cfg.params s).ref : ℝ) + ((cfg.params s).dir.sign : ℝ) * ((cfg.params s).step : ℝ) * ((i / 16 : Nat) : ℝ) +
        (p.toNat : ℝ) / 100
      let c : ℝ := (q.toNat : ℝ) / 256 * ((chromaLevel cfg (i % 16) : ℚ) : ℝ)
      min 255 (max 0 ⌊255 * ((row.x : ℝ) * (((i % 16 : Nat) : ℝ) / 15) + (row.y : ℝ) * (c * Real.cos (θ * Real.pi / 180)) +
        (row.z : ℝ) * (c * Real.sin (θ * Real.pi / 180))) + 1 / 2⌋) := by
  rw [channel_toNat, clamp]
  simp only [lumaValue, lumaLevel, chromaMagnitude, chromaAngle, baseAngle, hueLevel]
  push_cast
  rfl

end Sys2Proof.Machine
end

section
/-! The statements of family 41_palette.md: the palette commands, the palette function and the build engine. -/

namespace Sys2Proof.Machine

/-- Settles O14, by induction on the list: each command adds its delta modulo 36000, and remainders of sums add up. -/
theorem adjPhaseSequenceAddsUp : Obligations.AdjPhaseSequenceAddsUp := by
  intro ds
  induction ds with
  | nil =>
    intro s hs _
    refine ⟨s, rfl, ?_⟩
    rw [List.sum_nil]
    omega
  | cons d ds ih =>
    intro s hs hwf
    have hadd := phaseAdjust_toNat s.phase d
    obtain ⟨t, hrun, hphase⟩ := ih (s.setPhase (phaseAdjust s.phase d)).requestBuild (phaseMod_lt _)
      fun x hx => hwf x (List.mem_cons_of_mem d hx)
    rw [State.requestBuild_phase, State.setPhase_phase] at hphase
    refine ⟨t, hrun, ?_⟩
    rw [List.sum_cons]
    omega

/-- Settles O24: commands by whether they are palette inputs, reset by its reset value, the other accesses by their target. -/
theorem onlyPaletteInputsRequestABuild : Obligations.OnlyPaletteInputsRequestABuild :=
  ⟨fun _ _ _ => exec_buildPending, fun _ => rfl, fun _ _ _ => State.access_buildPending⟩

/-- Settles O36: the table holds its entries, and each channel of an entry is the exact real number rounded and clamped
(`floorForm_exact`, through `channel_toNat`). -/
theorem paletteIsTheExactRealFormula : Obligations.PaletteIsTheExactRealFormula := by
  intro cfg s p q i hi h l y θ c u v value rounded e
  have hentry : e = buildEntry cfg s p q i := buildTable_getElem cfg s p q i hi
  rw [hentry]
  have hchannel := channel_toNat_chromaAngle cfg s p q i
  exact ⟨hchannel _, hchannel _, hchannel _⟩

/-- Settles O37: entries of luma level 0 and of saturation 0 have no chroma, so they are the grays of their luma level. -/
theorem neutralGrays : Obligations.NeutralGrays := by
  constructor
  · intro cfg s p q h hh hlegal
    have hluma : lumaLevel (16 * h + 0) = 0 := Nat.mul_mod_right 16 h
    rw [buildTable_getElem, buildEntry_gray hlegal s p (chromaMagnitude_luma_zero hlegal.chromaZero q hluma), hluma]
    rfl
  · intro cfg s p i hi hlegal
    rw [buildTable_getElem, buildEntry_gray hlegal s p (chromaMagnitude_sat_zero cfg i), lumaLevel]

/-- Settles O38: the tables agree entry by entry, and commands store PHASE as a remainder. -/
theorem paletteIsPeriodicInPhase : Obligations.PaletteIsPeriodicInPhase := by
  refine ⟨?periodic, fun _ _ _ => exec_phase_lt⟩
  case periodic =>
    intro cfg s p p' q h
    refine Vector.ext fun i hi => ?_
    rw [buildTable_getElem, buildTable_getElem, buildEntry_phase_congr cfg s q i h]

/-- Settles O40: the engine's turn is `startBuild`, and a palette-input command leaves the build snapshot and BUILD_BUSY. -/
theorem buildStartTakesTheSnapshot : Obligations.BuildStartTakesTheSnapshot := by
  intro s ts ht hpending hidle
  have hstep : step s = .next (s.setTurns ts).startBuild := by
    rw [step_of_turn s .buildEngine ts ht, State.agentStep, State.buildStep_of_pending (s := s.setTurns ts) hpending hidle]
  refine ⟨hstep, ?later⟩
  case later =>
    intro i t u htu hi hexec
    cases hstep.symm.trans htu
    obtain ⟨c, p, q, -, hu⟩ := exec_paletteInput hi (s.setTurns ts).startBuild
    cases hu.symm.trans hexec
    exact ⟨rfl, rfl, rfl⟩

/-- Settles O41: the engine's turn is `completeBuild`, which writes the bank that was not active and makes it active. -/
theorem buildCompletePublishesBySwap : Obligations.BuildCompletePublishesBySwap := by
  intro s ts ht hbusy
  have hstep : step s = .next (s.setTurns ts).completeBuild := by
    rw [step_of_turn s .buildEngine ts ht, State.agentStep, State.buildStep_of_busy (s := s.setTurns ts) hbusy]
  exact ⟨_, hstep, Bank.other_ne _, State.completeBuild_active _, State.completeBuild_old _,
    State.completeBuild_eq _⟩

/-- Settles O12: the operand is bits 15:0, and PHASE takes its remainder. -/
theorem setPhaseResult : Obligations.SetPhaseResult := by
  refine ⟨decode_setPhase, fun s imm _ => ?_⟩
  have hexec := exec_setPhase s imm
  exact ⟨_, hexec, phaseSet_toNat imm, exec_sameMemory hexec, rfl⟩

/-- Settles O13: the operand is the signed low half, and PHASE takes the remainder of the sum. -/
theorem adjPhaseResult : Obligations.AdjPhaseResult := by
  refine ⟨fun w hop => sext16_bitField w ▸ decode_adjPhase w hop, fun s d _ => ?_⟩
  have hexec := exec_adjPhase s d
  exact ⟨_, hexec, phaseAdjust_toNat s.phase d, exec_sameMemory hexec, rfl⟩

/-- Settles O15: the operand is the signed low half, and in its range it fits SAT once it is not negative. -/
theorem setSatResult : Obligations.SetSatResult := by
  refine ⟨fun w hop => sext16_bitField w ▸ decode_setSat w hop, fun s q hwf => ?_⟩
  have hexec := exec_setSat s q
  obtain ⟨-, hmax⟩ := (setSat_wellFormed_iff q).1 hwf
  exact ⟨_, hexec, satSet_toNat q hmax, exec_sameMemory hexec, rfl⟩

/-- Settles O16: the operand is the signed low half, and SAT takes the clamped sum. -/
theorem adjSatResult : Obligations.AdjSatResult := by
  refine ⟨fun w hop => sext16_bitField w ▸ decode_adjSat w hop, fun s d _ => ?_⟩
  have hexec := exec_adjSat s d
  exact ⟨_, hexec, satAdjust_toNat s.sat d, exec_sameMemory hexec, rfl⟩

/-- Settles O17: the request stands in BUILD_PENDING, which completion leaves as it is. -/
theorem rebuildResult : Obligations.RebuildResult := by
  refine ⟨decode_rebuild, fun s => ?request⟩
  case request =>
    have hexec := exec_rebuild s
    refine ⟨_, hexec, exec_sameMemory hexec, rfl, exec_rebuild s.requestBuild, fun hbusy => ⟨hbusy, ?_⟩⟩
    rw [State.buildStep_of_busy (s := s.requestBuild) hbusy]
    exact ⟨rfl, rfl⟩

end Sys2Proof.Machine
end

section
/-! SUPPORT. The filter-state commands and RENDER, one equation per outcome (42_render.md sections 1 and 2). -/

namespace Sys2Proof.Machine

section
variable (s : State)

/-! ### The filter-state commands -/

theorem exec_toggleScan : exec .toggleScan s = .next (s.setCtrl { s.ctrl with scanEn := !s.ctrl.scanEn }) := rfl

theorem exec_toggleBlend : exec .toggleBlend s = .next (s.setCtrl { s.ctrl with blendEn := !s.ctrl.blendEn }) := rfl

theorem exec_toggleLoop : exec .toggleLoop s = .next (s.setCtrl { s.ctrl with loopEn := !s.ctrl.loopEn }) := rfl

/-- A second TOGGLE_SCAN inverts the inverted bit (42_render.md R180). -/
theorem exec_toggleScan_again : exec .toggleScan (s.setCtrl { s.ctrl with scanEn := !s.ctrl.scanEn }) = .next s := by
  rw [exec_toggleScan, State.setCtrl_ctrl, Bool.not_not]
  rfl

/-- A second TOGGLE_BLEND inverts the inverted bit (42_render.md R182). -/
theorem exec_toggleBlend_again : exec .toggleBlend (s.setCtrl { s.ctrl with blendEn := !s.ctrl.blendEn }) = .next s := by
  rw [exec_toggleBlend, State.setCtrl_ctrl, Bool.not_not]
  rfl

/-- A second TOGGLE_LOOP inverts the inverted bit (42_render.md R184). -/
theorem exec_toggleLoop_again : exec .toggleLoop (s.setCtrl { s.ctrl with loopEn := !s.ctrl.loopEn }) = .next s := by
  rw [exec_toggleLoop, State.setCtrl_ctrl, Bool.not_not]
  rfl

theorem exec_setFilters (scan blend loop : Bool) : exec (.setFilters scan blend loop) s =
    .next (s.setCtrl { s.ctrl with scanEn := scan, blendEn := blend, loopEn := loop }) := rfl

/-- The operand range of SET_SCALE (30_encoding.md R105). -/
theorem setScale_wellFormed_iff (n : Nat) : (Instr.setScale n).wellFormed = true ↔ n ≤ 15 := by
  simp [Instr.wellFormed]

/-- SET_SCALE of a non-zero operand stores it (42_render.md R188). -/
theorem exec_setScale_store {n : Nat} (hwf : (Instr.setScale n).wellFormed = true) (hn : n ≠ 0) :
    exec (.setScale n) s = .next (s.setCtrl { s.ctrl with scale := scaleField n }) :=
  if_neg ((scaleField_eq_zero n ((setScale_wellFormed_iff n).1 hwf)).not.2 hn)

/-- SET_SCALE of zero records BAD_OPERAND and nothing else (42_render.md R188). -/
theorem exec_setScale_badOperand : exec (.setScale 0) s = .next (s.recordError .badOperand) := rfl

end

/-! ### RENDER: its checks in their order (42_render.md R190) -/

section
variable {s : State}

/-- RENDER with no failing check is accepted. -/
theorem exec_render_accept (h : s.renderCheck = none) : exec .render s = .next s.acceptRender := by
  simp only [exec, execRender, h]

/-- RENDER records the error of the first failing check and nothing else. -/
theorem exec_render_raise {c : ErrorCode} (h : s.renderCheck = some c) : exec .render s = .next (s.recordError c) := by
  simp only [exec, execRender, h]

theorem State.renderCheck_fatal (h : s.status.fatal = true) : s.renderCheck = some .renderRefused := if_pos h

theorem State.renderCheck_busy (hfatal : s.status.fatal = false) (h : s.status.renderBusy = true) :
    s.renderCheck = some .busy := by
  rw [State.renderCheck, hfatal, if_neg Bool.false_ne_true, if_pos h]

theorem State.renderCheck_notConfigured (hfatal : s.status.fatal = false) (hidle : s.status.renderBusy = false)
    (h : s.geomW = 0 ∨ s.geomH = 0) : s.renderCheck = some .notConfigured := by
  rw [State.renderCheck, hfatal, hidle, if_neg Bool.false_ne_true, if_neg Bool.false_ne_true, if_pos h]

theorem State.renderCheck_geometryMismatch (hfatal : s.status.fatal = false) (hidle : s.status.renderBusy = false)
    (hw : s.geomW ≠ 0) (hh : s.geomH ≠ 0) (h : s.frameLen.toNat ≠ frameBytes s.geomW s.geomH) :
    s.renderCheck = some .geometryMismatch := by
  rw [State.renderCheck, hfatal, hidle, if_neg Bool.false_ne_true, if_neg Bool.false_ne_true, if_neg (not_or.2 ⟨hw, hh⟩),
    if_pos h]

theorem State.renderCheck_capacity (hfatal : s.status.fatal = false) (hidle : s.status.renderBusy = false)
    (hw : s.geomW ≠ 0) (hh : s.geomH ≠ 0) (hlen : s.frameLen.toNat = frameBytes s.geomW s.geomH)
    (h : s.cfg.inMemBytes < frameBytes s.geomW s.geomH ∨
      s.cfg.outMemBytes < outputBytes s.geomW s.geomH s.ctrl.scale) : s.renderCheck = some .capacity := by
  rw [State.renderCheck, hfatal, hidle, if_neg Bool.false_ne_true, if_neg Bool.false_ne_true, if_neg (not_or.2 ⟨hw, hh⟩),
    if_neg (not_not.2 hlen), if_pos h]

end

/-- Before the first build the render engine has no enabled step (42_render.md R190, R201). -/
theorem Status.renderEnabled_of_palInvalid {st : Status} (h : st.palValid = false) : st.renderEnabled = false := by
  rw [Status.renderEnabled, h, Bool.and_false]

end Sys2Proof.Machine
end

section
/-! SUPPORT. The render function: which pixel each output pixel is, scanline attenuation, blending in the luma/chroma domain, and
what a render depends on (42_render.md section 3). -/

namespace Sys2Proof.Machine

/-! ### Output pixels -/

/-- The native pixel (x, y): the palette's triple for its index, blended with its neighbours when the blend flag is 1
(42_render.md R203, R205). -/
theorem pxAt_nativeFrame (cfg : Config) (inp : Nat → Byte) {w h x y : Nat} (blend : Bool) (s : Std) (pal : Palette)
    (hx : x < w) (hy : y < h) :
    pxAt (nativeFrame cfg inp w h blend s pal) w x y =
      if blend then blendPixel cfg s (paletteEntry pal (inp (y * w + (x - 1)))) (paletteEntry pal (inp (y * w + x)))
        (paletteEntry pal (inp (y * w + min (x + 1) (w - 1))))
      else paletteEntry pal (inp (y * w + x)) := by
  have hbase (x' : Nat) (hx' : x' < w) := pxAt_baseFrame inp w h pal x' y hx' hy
  cases blend with
  | false => exact hbase x hx
  | true =>
    rw [nativeFrame, if_pos rfl, if_pos rfl, pxAt_blendFrame cfg s _ w h x y hx hy, hbase (x - 1) (by omega), hbase x hx,
      hbase _ (by omega)]

/-- One channel of an output row: attenuated in the odd rows when the scan flag is 1 (42_render.md R206). -/
def scanned (cfg : Config) (scan : Bool) (yo : Nat) (c : Byte) : Byte :=
  if scan = true ∧ yo % 2 = 1 then attenuate cfg c else c

/-- An output pixel is its native pixel with every channel scanned (42_render.md R206, R207). -/
theorem outputPixel_eq_scanned (cfg : Config) (f : Frame) (w sc : Nat) (scan : Bool) (xo yo : Nat) :
    outputPixel cfg f w sc scan xo yo =
      ⟨scanned cfg scan yo (pxAt f w (xo / sc) (yo / sc)).r, scanned cfg scan yo (pxAt f w (xo / sc) (yo / sc)).g,
       scanned cfg scan yo (pxAt f w (xo / sc) (yo / sc)).b⟩ := by
  simp only [outputPixel, scanned, Bool.and_eq_true, decide_eq_true_eq]
  split <;> rfl

/-- The scan flag attenuates the odd output rows and leaves the even ones (42_render.md R209). -/
theorem outputPixel_scan (cfg : Config) (f : Frame) (w sc xo yo : Nat) :
    outputPixel cfg f w sc true xo yo =
      if yo % 2 = 1 then attenuateRgb cfg (outputPixel cfg f w sc false xo yo) else outputPixel cfg f w sc false xo yo := by
  simp [outputPixel]

/-! ### Scanline attenuation -/

section
variable {cfg : Config}

/-- The attenuated channel fits its byte, so it is the floor itself (42_render.md R206). -/
theorem attenuate_toNat (hatten : cfg.scanAtten ≤ 255) (c : Byte) :
    (attenuate cfg c).toNat = c.toNat * cfg.scanAtten / 256 := by
  have hprod : c.toNat * cfg.scanAtten ≤ 255 * 255 := Nat.mul_le_mul (Nat.le_of_lt_succ c.isLt) hatten
  rw [attenuate, BitVec.toNat_ofNat, Nat.mod_eq_of_lt (by omega)]

theorem scanned_toNat (hatten : cfg.scanAtten ≤ 255) (scan : Bool) (yo : Nat) (c : Byte) :
    (scanned cfg scan yo c).toNat = if scan = true ∧ yo % 2 = 1 then c.toNat * cfg.scanAtten / 256 else c.toNat := by
  rw [scanned, ← attenuate_toNat hatten]
  split <;> rfl

/-- The factor is below 1, so a channel that is not 0 gets darker (42_render.md R209). -/
theorem attenuate_lt (hatten : cfg.scanAtten ≤ 255) {c : Byte} (hc : c ≠ 0) : (attenuate cfg c).toNat < c.toNat := by
  have hpos : 0 < c.toNat := Nat.pos_of_ne_zero fun h => hc (BitVec.eq_of_toNat_eq h)
  have hprod : c.toNat * cfg.scanAtten ≤ c.toNat * 255 := Nat.mul_le_mul_left _ hatten
  rw [attenuate_toNat hatten]
  omega

theorem attenuate_zero (cfg : Config) : attenuate cfg 0 = 0 := by simp [attenuate]

theorem attenuate_le (hatten : cfg.scanAtten ≤ 255) (c : Byte) : (attenuate cfg c).toNat ≤ c.toNat := by
  by_cases hc : c = 0
  · rw [hc, attenuate_zero]
  · exact (attenuate_lt hatten hc).le

/-- Only a channel of 0 keeps its value (42_render.md R209). -/
theorem attenuate_eq_iff (hatten : cfg.scanAtten ≤ 255) (c : Byte) : (attenuate cfg c).toNat = c.toNat ↔ c = 0 := by
  refine ⟨fun h => ?_, fun h => by rw [h, attenuate_zero]⟩
  by_contra hc
  exact (attenuate_lt hatten hc).ne h

theorem mul_attenuate_le {wt : Rat} (hwt : 0 < wt) (hatten : cfg.scanAtten ≤ 255) (c : Byte) :
    wt * (attenuate cfg c).toNat ≤ wt * c.toNat :=
  mul_le_mul_of_nonneg_left (Nat.cast_le.2 (attenuate_le hatten c)) hwt.le

theorem mul_attenuate_lt {wt : Rat} (hwt : 0 < wt) (hatten : cfg.scanAtten ≤ 255) {c : Byte} (hc : c ≠ 0) :
    wt * (attenuate cfg c).toNat < wt * c.toNat :=
  mul_lt_mul_of_pos_left (Nat.cast_lt.2 (attenuate_lt hatten hc)) hwt

/-- The luma of a pixel under the weights of its channels (42_render.md R209). -/
def weightedLuma (wr wg wb : Rat) (p : Rgb) : Rat := wr * p.r.toNat + wg * p.g.toNat + wb * p.b.toNat

theorem attenuateRgb_black (cfg : Config) : attenuateRgb cfg ⟨0, 0, 0⟩ = ⟨0, 0, 0⟩ := by
  rw [attenuateRgb, attenuate_zero]

variable {wr wg wb : Rat} (hr : 0 < wr) (hg : 0 < wg) (hb : 0 < wb)
include hr hg hb

/-- Attenuation makes no pixel brighter. -/
theorem weightedLuma_attenuate_le (hatten : cfg.scanAtten ≤ 255) (p : Rgb) :
    weightedLuma wr wg wb (attenuateRgb cfg p) ≤ weightedLuma wr wg wb p :=
  add_le_add (add_le_add (mul_attenuate_le hr hatten p.r) (mul_attenuate_le hg hatten p.g)) (mul_attenuate_le hb hatten p.b)

/-- Attenuation darkens every pixel that is not black: one of its channels is not 0. -/
theorem weightedLuma_attenuate_lt (hatten : cfg.scanAtten ≤ 255) {p : Rgb} (hp : p ≠ ⟨0, 0, 0⟩) :
    weightedLuma wr wg wb (attenuateRgb cfg p) < weightedLuma wr wg wb p := by
  have hrle := mul_attenuate_le hr hatten p.r
  have hgle := mul_attenuate_le hg hatten p.g
  have hble := mul_attenuate_le hb hatten p.b
  have hchannel : p.r ≠ 0 ∨ p.g ≠ 0 ∨ p.b ≠ 0 := by
    by_contra! hzero
    obtain ⟨hr0, hg0, hb0⟩ := hzero
    exact hp (congr (congr (congrArg Rgb.mk hr0) hg0) hb0)
  obtain hne | hne | hne := hchannel
  · exact add_lt_add_of_lt_of_le (add_lt_add_of_lt_of_le (mul_attenuate_lt hr hatten hne) hgle) hble
  · exact add_lt_add_of_lt_of_le (add_lt_add_of_le_of_lt hrle (mul_attenuate_lt hg hatten hne)) hble
  · exact add_lt_add_of_le_of_lt (add_le_add hrle hgle) (mul_attenuate_lt hb hatten hne)

/-- The luma sum of a row does not grow (42_render.md R209). -/
theorem rowLuma_attenuate_le (hatten : cfg.scanAtten ≤ 255) (row : List Rgb) :
    (row.map fun p => weightedLuma wr wg wb (attenuateRgb cfg p)).sum ≤ (row.map (weightedLuma wr wg wb)).sum :=
  List.sum_le_sum fun p _ => weightedLuma_attenuate_le hr hg hb hatten p

/-- The luma sum of a row gets smaller exactly when some pixel is not black (42_render.md R209). -/
theorem rowLuma_attenuate_lt_iff (hatten : cfg.scanAtten ≤ 255) (row : List Rgb) :
    (row.map fun p => weightedLuma wr wg wb (attenuateRgb cfg p)).sum < (row.map (weightedLuma wr wg wb)).sum ↔
      ∃ p ∈ row, p ≠ ⟨0, 0, 0⟩ := by
  constructor
  · intro hlt
    by_contra! hblack
    refine hlt.ne (congrArg List.sum (List.map_congr_left fun p hp => ?_))
    rw [hblack p hp, attenuateRgb_black]
  · rintro ⟨p, hp, hne⟩
    exact List.sum_lt_sum _ _ (fun q _ => weightedLuma_attenuate_le hr hg hb hatten q)
      ⟨p, hp, weightedLuma_attenuate_lt hr hg hb hatten hne⟩

end

/-! ### Blending -/

/-- The matrix of either standard of a legal configuration is invertible (00_scope.md R10). -/
theorem ConfigLegal.invertible {cfg : Config} (hlegal : ConfigLegal cfg) (s : Std) : det (cfg.params s).m ≠ 0 := by
  cases s with
  | stdA => exact hlegal.invertibleA
  | stdB => exact hlegal.invertibleB

/-- Luma/chroma coordinates are unique, so blending takes the averages of whatever coordinates three pixels have
(42_render.md R204). -/
theorem blendPixel_of_coordinates {cfg : Config} (hlegal : ConfigLegal cfg) (s : Std) {l m r : Rgb} {a b c : Vec3}
    (ha : mulVec (cfg.params s).m a = rgbVec l) (hb : mulVec (cfg.params s).m b = rgbVec m)
    (hc : mulVec (cfg.params s).m c = rgbVec r) :
    blendPixel cfg s l m r =
      ⟨clamp8 (rnd (dot (cfg.params s).m.row0 (blendVec cfg a b c))),
       clamp8 (rnd (dot (cfg.params s).m.row1 (blendVec cfg a b c))),
       clamp8 (rnd (dot (cfg.params s).m.row2 (blendVec cfg a b c)))⟩ := by
  have hcoord := inverse_mulVec (cfg.params s).m (hlegal.invertible s)
  simp only [blendPixel, ← ha, ← hb, ← hc, hcoord]
  rfl

/-- The average of equal values is the value, for weights that are not all 0. -/
theorem weighted_same {side center : Nat} (hweight : 0 < 2 * side + center) (x : Rat) : weighted side center x x x = x := by
  have hne : ((2 * side + center : Nat) : Rat) ≠ 0 := Nat.cast_ne_zero.2 hweight.ne'
  rw [weighted, div_eq_iff hne]
  push_cast
  ring

theorem blendVec_same {cfg : Config} (hlegal : ConfigLegal cfg) (a : Vec3) : blendVec cfg a a a = a := by
  simp only [blendVec, weighted_same hlegal.lumaWeight, weighted_same hlegal.chromaWeight]

/-- A pixel among its own colour keeps it: back through the matrix its channels are the integers they were
(42_render.md R210). -/
theorem blendPixel_same {cfg : Config} (hlegal : ConfigLegal cfg) (s : Std) (p : Rgb) : blendPixel cfg s p p p = p := by
  have hback := mulVec_inverse (cfg.params s).m (hlegal.invertible s) (rgbVec p)
  obtain ⟨hrow0, hrow1, hrow2⟩ := Vec3.mk.inj hback
  rw [blendPixel_of_coordinates hlegal s hback hback hback, blendVec_same hlegal, hrow0, hrow1, hrow2]
  simp only [rnd_natCast, clamp8_natCast]

/-- In a frame one pixel wide every pixel is its own neighbour on both sides (42_render.md R205, R210). -/
theorem nativeFrame_blend_width_one {cfg : Config} (hlegal : ConfigLegal cfg) (inp : Nat → Byte) (h : Nat) (s : Std)
    (pal : Palette) : nativeFrame cfg inp 1 h true s pal = nativeFrame cfg inp 1 h false s pal := by
  refine congrArg List.toArray (List.map_congr_left fun k hk => ?_)
  have hrow : k < h := by simpa using hk
  have hpixel := pxAt_baseFrame inp 1 h pal 0 k Nat.one_pos hrow
  simp only [Nat.mod_one, Nat.div_one, Nat.zero_sub, Nat.sub_self, Nat.min_zero, hpixel, blendPixel_same hlegal]
  rw [Nat.mul_one, Nat.add_zero]

/-- One blended channel: the row of the matrix times the three weighted averages, rounded and clamped (42_render.md R204). -/
theorem blendChannel_toNat (cfg : Config) (row a b c : Vec3) :
    ((clamp8 (rnd (dot row (blendVec cfg a b c)))).toNat : Int) =
      let y' : Rat := (cfg.ySide * a.x + cfg.yCenter * b.x + cfg.ySide * c.x) / (2 * cfg.ySide + cfg.yCenter)
      let u' : Rat := (cfg.cSide * a.y + cfg.cCenter * b.y + cfg.cSide * c.y) / (2 * cfg.cSide + cfg.cCenter)
      let v' : Rat := (cfg.cSide * a.z + cfg.cCenter * b.z + cfg.cSide * c.z) / (2 * cfg.cSide + cfg.cCenter)
      min 255 (max 0 ⌊row.x * y' + row.y * u' + row.z * v' + 1 / 2⌋) := by
  rw [clamp8_toNat, clamp, rnd]
  simp only [dot, blendVec, weighted]
  push_cast
  rfl

/-! ### What a render depends on -/

/-- A render reads the first `W * H` input bytes alone (42_render.md R208). -/
theorem renderBytes_congr (cfg : Config) {inp inp' : Nat → Byte} {w h : Nat} (sc : Nat) (scan blend : Bool) (s : Std)
    (pal : Palette) (hinp : ∀ a < w * h, inp a = inp' a) :
    renderBytes cfg inp w h sc scan blend s pal = renderBytes cfg inp' w h sc scan blend s pal := by
  have hbase : baseFrame inp w h pal = baseFrame inp' w h pal :=
    congrArg List.toArray (List.map_congr_left fun k hk => by rw [hinp k (List.mem_range.1 hk)])
  simp only [renderBytes, nativeFrame, hbase]

/-- States with equal configuration, snapshot, active-bank contents and input bytes render the same bytes (42_render.md R208). -/
theorem State.renderOutput_congr {s s' : State} (hcfg : s.cfg = s'.cfg) (hsnap : s.snap = s'.snap)
    (hbank : s.bank s.status.activeBank = s'.bank s'.status.activeBank)
    (hin : ∀ a < s.snap.w.toNat * s.snap.h.toNat, s.readByte .inMem a = s'.readByte .inMem a) :
    s.renderOutput = s'.renderOutput := by
  rw [State.renderOutput, renderBytes_congr _ _ _ _ _ _ hin, hcfg, hsnap, hbank, State.renderOutput]

/-- An untainted perform puts the render's bytes into the render region (42_render.md R201). -/
theorem State.performRender_untainted {s : State} (h : s.snap.taint = false) {k : Nat} (hk : k < s.regionLen) :
    s.performRender.readByte .outMem k = (s.renderOutput[k]?).getD 0 := by
  rw [State.readByte_performRender, if_pos ⟨rfl, hk⟩, State.performed, h, if_neg Bool.false_ne_true]

end Sys2Proof.Machine
end

section
/-! The statements of family 42_render.md: the filter-state commands, RENDER and the render function. -/

namespace Sys2Proof.Machine

/-- Settles O21: the checks stand in the order of R190, and an accept with no palette leaves the perform step disabled. -/
theorem renderAcceptsOrRaises : Obligations.RenderAcceptsOrRaises := by
  refine ⟨decode_render, ?accepts,
    fun s h => exec_render_raise (s.renderCheck_fatal h),
    fun s hfatal h => exec_render_raise (s.renderCheck_busy hfatal h),
    fun s hfatal hidle h => exec_render_raise (s.renderCheck_notConfigured hfatal hidle h),
    fun s hfatal hidle hw hh h => exec_render_raise (s.renderCheck_geometryMismatch hfatal hidle hw hh h),
    fun s hfatal hidle hw hh hlen h => exec_render_raise (s.renderCheck_capacity hfatal hidle hw hh hlen h)⟩
  case accepts =>
    intro s hfatal hidle hw hh hlen hin hout
    have hexec := exec_render_accept (s.renderCheck_eq_none.2 ⟨hfatal, hidle, hw, hh, hlen, hin, hout⟩)
    exact ⟨_, hexec, exec_sameMemory hexec, rfl, fun hinvalid => Status.renderEnabled_of_palInvalid hinvalid⟩

/-- Settles O46: the bytes of an output pixel are its channels, each the scanned channel of the native pixel. -/
theorem renderedByteIsThePixelChannel : Obligations.RenderedByteIsThePixelChannel := by
  intro cfg inp w h sc scan blend s pal hatten
  refine ⟨(renderBytes_length ..).trans (Nat.mul_assoc ..).symm, ?channels⟩
  case channels =>
    intro xo yo hxo hyo base px p dark out
    have hx : xo / sc < w := Nat.div_lt_of_lt_mul (Nat.mul_comm w sc ▸ hxo)
    have hy : yo / sc < h := Nat.div_lt_of_lt_mul (Nat.mul_comm h sc ▸ hyo)
    have hpixel : outputPixel cfg (nativeFrame cfg inp w h blend s pal) w sc scan xo yo =
        ⟨scanned cfg scan yo p.r, scanned cfg scan yo p.g, scanned cfg scan yo p.b⟩ := by
      rw [outputPixel_eq_scanned, pxAt_nativeFrame cfg inp blend s pal hx hy]
      rfl
    have hbyte (c : Nat) (hc : c < 3) := renderBytes_get cfg inp w h sc scan blend s pal xo yo c hxo hyo hc
    rw [hpixel] at hbyte
    have hdark (c : Byte) : some (scanned cfg scan yo c).toNat = some (dark c) := congrArg some (scanned_toNat hatten scan yo c)
    have hout (c : Nat) (hc : c < 3) := congrArg (Option.map BitVec.toNat) (hbyte c hc)
    exact ⟨(hout 0 (by decide)).trans (hdark p.r), (hout 1 (by decide)).trans (hdark p.g),
      (hout 2 (by decide)).trans (hdark p.b)⟩

/-- Settles O47: an invertible matrix gives every pixel one triple of coordinates, and each channel is the rounded product. -/
theorem blendIsTheWeightedAverageInLumaChroma : Obligations.BlendIsTheWeightedAverageInLumaChroma := by
  intro cfg s l m r a b c hlegal ha hb hc y' u' v' rounded
  rw [blendPixel_of_coordinates hlegal s ha hb hc]
  exact ⟨blendChannel_toNat cfg _ a b c, blendChannel_toNat cfg _ a b c, blendChannel_toNat cfg _ a b c⟩

/-- Settles O48: the average of equal coordinates is the coordinate, and at width 1 a pixel's neighbours are the pixel. -/
theorem blendPreservesFlatRegions : Obligations.BlendPreservesFlatRegions :=
  ⟨fun _ s p hlegal => blendPixel_same hlegal s p,
   fun _ inp h s pal hlegal => nativeFrame_blend_width_one hlegal inp h s pal⟩

/-- Settles O49: at scale 1 output pixel (x, y) is native pixel (x, y), and without filters that is the palette's triple. -/
theorem plainRenderIsPaletteLookup : Obligations.PlainRenderIsPaletteLookup := by
  intro cfg inp w h s pal x y hx hy
  have hpixel : outputPixel cfg (nativeFrame cfg inp w h false s pal) w 1 false x y = paletteEntry pal (inp (y * w + x)) := by
    rw [outputPixel, Nat.div_one, Nat.div_one]
    exact pxAt_nativeFrame cfg inp false s pal hx hy
  have hbyte (c : Nat) (hc : c < 3) := renderBytes_get cfg inp w h 1 false false s pal x y c
    ((Nat.mul_one w).symm ▸ hx) ((Nat.mul_one h).symm ▸ hy) hc
  rw [hpixel, Nat.mul_one] at hbyte
  exact ⟨_, getElem?_palette pal _, hbyte 0 (by decide), hbyte 1 (by decide), hbyte 2 (by decide)⟩

/-- Settles O50: SCAN_ATTEN is below 256, so attenuation darkens every channel but 0, and with it every pixel but black. -/
theorem scanlinesDarkenOddRowsStrictly : Obligations.ScanlinesDarkenOddRowsStrictly := by
  intro cfg hlegal
  have hatten := hlegal.attenuation
  refine ⟨outputPixel_scan cfg, ?channel, fun _ _ _ row hr hg hb =>
    ⟨rowLuma_attenuate_le hr hg hb hatten row, rowLuma_attenuate_lt_iff hr hg hb hatten row⟩⟩
  case channel =>
    intro c
    have hfloor := attenuate_toNat hatten c
    exact ⟨attenuate_le hatten c, attenuate_eq_iff hatten c, by omega, by omega⟩

/-- Settles O51: the render region takes `renderOutput`, which is a function of what the two states agree on. -/
theorem renderIsDeterministic : Obligations.RenderIsDeterministic := by
  intro s s' hcfg hsnap htaint hbank hin k hk
  have hk' : k < s'.regionLen := by rwa [State.regionLen, ← hsnap]
  rw [State.performRender_untainted htaint hk, State.performRender_untainted (hsnap ▸ htaint) hk',
    State.renderOutput_congr hcfg hsnap hbank hin]

/-- Settles O18: each toggle writes CTRL alone, and inverting a bit twice gives it back. -/
theorem togglesInvertTheirBit : Obligations.TogglesInvertTheirBit :=
  ⟨fun w => ⟨decode_toggleScan w, decode_toggleBlend w, decode_toggleLoop w⟩,
   fun s =>
    ⟨⟨_, exec_toggleScan s, exec_sameMemory (exec_toggleScan s), rfl, exec_toggleScan_again s⟩,
     ⟨_, exec_toggleBlend s, exec_sameMemory (exec_toggleBlend s), rfl, exec_toggleBlend_again s⟩,
     ⟨_, exec_toggleLoop s, exec_sameMemory (exec_toggleLoop s), rfl, exec_toggleLoop_again s⟩⟩⟩

/-- Settles O19: the operands are bits 0, 1 and 2 of the word, and the command writes the three bits of CTRL. -/
theorem setFiltersResult : Obligations.SetFiltersResult := by
  refine ⟨?decodes, fun s scan blend loop => ?_⟩
  case decodes =>
    intro w hop
    rw [decode_setFilters w hop, bitOf_eq_getLsbD, bitOf_eq_getLsbD, bitOf_eq_getLsbD]
  have hexec := exec_setFilters s scan blend loop
  exact ⟨_, hexec, exec_sameMemory hexec, rfl⟩

/-- Settles O20: a well-formed operand fits SCALE, so the field is zero exactly when the operand is. -/
theorem setScaleResult : Obligations.SetScaleResult := by
  refine ⟨decode_setScale, fun s n hwf hn => ?_, exec_setScale_badOperand⟩
  have hexec := exec_setScale_store s hwf hn
  exact ⟨_, hexec, scaleField_toNat n ((setScale_wellFormed_iff n).1 hwf), exec_sameMemory hexec, rfl⟩

end Sys2Proof.Machine
end

section
/-! SUPPORT. The number and the bit of an error code (60_exceptions.md R220, R222). -/

namespace Sys2Proof.Machine

/-- The field ERR_FIRST holds every code. -/
theorem ErrorCode.ofNat_num_toNat (c : ErrorCode) : (BitVec.ofNat 4 c.num).toNat = c.num := by
  obtain ⟨-, hle⟩ := c.num_range
  rw [BitVec.toNat_ofNat, Nat.mod_eq_of_lt (by omega)]

/-- Code `c` has bit `c - 1` of ERR_BITS and no other. -/
theorem ErrorCode.bit_getLsbD (c : ErrorCode) (k : Nat) : c.bit.getLsbD k = decide (k = c.num - 1) := by
  obtain ⟨-, hle⟩ := c.num_range
  rw [ErrorCode.bit, BitVec.getLsbD_ofNat, Nat.testBit_two_pow, Bool.eq_iff_iff]
  simp only [Bool.and_eq_true, decide_eq_true_eq]
  omega

/-- GEOMETRY_MISMATCH, the code that sets FATAL, is number 6 and the only one (60_exceptions.md R220). -/
theorem ErrorCode.eq_geometryMismatch_iff (c : ErrorCode) : c = .geometryMismatch ↔ c.num = 6 := by
  cases c <;> decide

end Sys2Proof.Machine
end

section
/-! The statement of family 60_exceptions.md about error recording. -/

namespace Sys2Proof.Machine

/-- Settles O22: the fields of `Status.record`, with the code's bit and number; ERR reads 1 because a bit is left set, and the frame
is the definition of recording as an update of STATUS alone. -/
theorem errorRecordingWritesStatusOnly : Obligations.ErrorRecordingWritesStatusOnly := by
  refine ⟨fun s c => ?_, rfl⟩
  rw [State.readReg_status, State.recordError_status]
  refine ⟨?firstTaken, ?firstKept, ?bits, ?fatal, ?err, rfl⟩
  case firstTaken =>
    intro hnone
    rw [Status.record_errFirst, if_pos hnone, c.ofNat_num_toNat]
  case firstKept =>
    intro hsome
    rw [Status.record_errFirst, if_neg hsome]
  case bits =>
    intro k
    rw [Status.record_errBits, BitVec.getLsbD_or, c.bit_getLsbD]
  case fatal => rw [Status.record_fatal, decide_eq_decide.2 c.eq_geometryMismatch_iff]
  case err => rw [Status.word_getLsbD_err, decide_eq_true (Status.record_errBits_ne_zero s.status c)]

end Sys2Proof.Machine
end

section
/-! SUPPORT. The assembler and the decoder undo each other: every well-formed command comes back from its word, and two words of one
command agree on the bits its format uses (30_encoding.md R91 to R105). -/

namespace Sys2Proof

/-! ### Decoding an assembled word -/

/-- The word of a well-formed command carries the OPCODE of its row (30_encoding.md R90, R99). -/
theorem encode_opcode {i : Instr} (hwf : i.wellFormed = true) : bitField (encode i) 31 24 = i.opcode := by
  cases i with
  | nop => exact Laws.EncodedOpcode.nop hwf
  | setStd s => exact Laws.EncodedOpcode.setStd s hwf
  | setGeom w h => exact Laws.EncodedOpcode.setGeom w h hwf
  | setFrameLen len => exact Laws.EncodedOpcode.setFrameLen len hwf
  | setPhase imm => exact Laws.EncodedOpcode.setPhase imm hwf
  | adjPhase simm => exact Laws.EncodedOpcode.adjPhase simm hwf
  | setSat simm => exact Laws.EncodedOpcode.setSat simm hwf
  | adjSat simm => exact Laws.EncodedOpcode.adjSat simm hwf
  | rebuild => exact Laws.EncodedOpcode.rebuild hwf
  | toggleScan => exact Laws.EncodedOpcode.toggleScan hwf
  | toggleBlend => exact Laws.EncodedOpcode.toggleBlend hwf
  | toggleLoop => exact Laws.EncodedOpcode.toggleLoop hwf
  | setFilters scan blend loop => exact Laws.EncodedOpcode.setFilters scan blend loop hwf
  | setScale n => exact Laws.EncodedOpcode.setScale n hwf
  | render => exact Laws.EncodedOpcode.render hwf

/-- The operand of a word built from an OPCODE and an operand of at most `hi + 1` bits (30_encoding.md R90). -/
theorem bitField_opcode_add {op n hi : Nat} (hop : op < 256) (hhi : hi < 24) (hn : n < 2 ^ (hi + 1)) :
    bitField (BitVec.ofNat 32 (op * 16777216 + n)) hi 0 = n := by
  have hle : 2 ^ (hi + 1) ∣ 16777216 := pow_dvd_pow 2 (show hi + 1 ≤ 24 by omega)
  have hlt : 2 ^ (hi + 1) ≤ 16777216 := Nat.le_of_dvd (by decide) hle
  rw [bitField_ofNat _ _ _ (by omega), pow_zero, Nat.div_one, Nat.sub_zero, Nat.add_mod,
    Nat.mod_eq_zero_of_dvd (hle.mul_left op), Nat.zero_add, Nat.mod_mod, Nat.mod_eq_of_lt hn]

/-- Decoding an assembled command gives it back: the OPCODE selects its row, and each operand is read from the field it was
written to (30_encoding.md R100, R105). -/
theorem decode_encode {i : Instr} (hwf : i.wellFormed = true) : decode (encode i) = .ok i := by
  have hop := encode_opcode hwf
  cases i with
  | nop => exact decode_nop _ hop
  | setStd s => cases s <;> decide
  | setGeom w h =>
    obtain ⟨hw, hh⟩ := (Machine.setGeom_wellFormed_iff w h).1 hwf
    rw [decode_setGeom _ hop, encode, bitField_ofNat _ _ _ (by omega), bitField_ofNat _ _ _ (by omega)]
    congr 2 <;> omega
  | setFrameLen len =>
    have hlen : len ≤ 16777215 := of_decide_eq_true hwf
    rw [decode_setFrameLen _ hop, encode, bitField_opcode_add (op := 0x03) (by decide) (by decide) (by omega)]
  | setPhase imm =>
    have himm : imm ≤ 65535 := of_decide_eq_true hwf
    rw [decode_setPhase _ hop, encode, bitField_opcode_add (op := 0x10) (by decide) (by decide) (by omega)]
  | adjPhase d =>
    obtain ⟨hmin, hmax⟩ : -32768 ≤ d ∧ d ≤ 32767 := by simpa [Instr.wellFormed] using hwf
    rw [decode_adjPhase _ hop, encode, bitField_opcode_add (op := 0x11) (by decide) (by decide) (field16_lt d),
      sext16_field16 d hmin hmax]
  | setSat q =>
    obtain ⟨hmin, hmax⟩ := (Machine.setSat_wellFormed_iff q).1 hwf
    rw [decode_setSat _ hop, encode, bitField_opcode_add (op := 0x12) (by decide) (by decide) (field16_lt q),
      sext16_field16 q hmin hmax]
  | adjSat d =>
    obtain ⟨hmin, hmax⟩ : -32768 ≤ d ∧ d ≤ 32767 := by simpa [Instr.wellFormed] using hwf
    rw [decode_adjSat _ hop, encode, bitField_opcode_add (op := 0x13) (by decide) (by decide) (field16_lt d),
      sext16_field16 d hmin hmax]
  | rebuild => exact decode_rebuild _ hop
  | toggleScan => exact decode_toggleScan _ hop
  | toggleBlend => exact decode_toggleBlend _ hop
  | toggleLoop => exact decode_toggleLoop _ hop
  | setFilters scan blend loop => cases scan <;> cases blend <;> cases loop <;> decide
  | setScale n =>
    have hn := (Machine.setScale_wellFormed_iff n).1 hwf
    rw [decode_setScale _ hop, encode, bitField_opcode_add (op := 0x24) (by decide) (by decide) (by omega)]
  | render => exact decode_render _ hop

/-! ### Words of one command -/

/-- Words with an equal field agree on the bits of the field. -/
theorem getLsbD_of_bitField_eq {v v' : Word} {hi lo j : Nat} (h : bitField v' hi lo = bitField v hi lo) (hlo : lo ≤ j)
    (hhi : j ≤ hi) : v'.getLsbD j = v.getLsbD j := by
  have hbit := congrArg (·.testBit (j - lo)) h
  simpa only [bitField_testBit, decide_eq_true (show j - lo < hi + 1 - lo by omega), Bool.true_and,
    Nat.add_sub_cancel' hlo] using hbit

/-- Words that agree on the OPCODE and on the bits below `n` agree under a mask of those bits. -/
theorem and_mask_congr {v v' m : Word} {n : Nat} (hop : bitField v' 31 24 = bitField v 31 24)
    (hlow : ∀ j < n, v'.getLsbD j = v.getLsbD j) (hmask : ∀ j < 32, m.getLsbD j = true → j < n ∨ 24 ≤ j) :
    v' &&& m = v &&& m := by
  refine BitVec.eq_of_getLsbD_eq fun j hj => ?_
  rw [BitVec.getLsbD_and, BitVec.getLsbD_and]
  cases hm : m.getLsbD j with
  | false => rw [Bool.and_false, Bool.and_false]
  | true =>
    obtain hj' | hj' := hmask j hj hm
    · rw [hlow j hj']
    · rw [getLsbD_of_bitField_eq hop hj' (Nat.le_of_lt_succ hj)]

theorem ofBit_injective : Function.Injective Std.ofBit :=
  Function.LeftInverse.injective (g := Std.bit) fun b => by cases b <;> rfl

/-- Sign extension of a 16-bit field loses nothing. -/
theorem sext16_injOn {a b : Nat} (ha : a < 65536) (hb : b < 65536) (h : sext16 a = sext16 b) : a = b := by
  unfold sext16 at h
  split at h <;> split at h <;> omega

/-- Words with the same sign-extended operand agree on its bits. -/
theorem getLsbD_of_sext16_eq {v v' : Word} (h : sext16 (bitField v' 15 0) = sext16 (bitField v 15 0)) (j : Nat) (hj : j < 16) :
    v'.getLsbD j = v.getLsbD j :=
  getLsbD_of_bitField_eq (sext16_injOn (bitField_lt v' 15 0) (bitField_lt v 15 0) h) (Nat.zero_le j) (Nat.le_of_lt_succ hj)

/-- The row of a command is the row of its word. -/
theorem bitField_opcode_of_decode {w : Word} {i : Instr} (h : decode w = .ok i) : bitField w 31 24 = i.opcode := by
  obtain ⟨i', hi', hop⟩ | hill := decode_ok_or_illegal w
  · cases hi'.symm.trans h
    exact hop.symm
  · cases hill.symm.trans h

/-- Two words of one command agree on the bits its format uses: the OPCODE is the row's, and the decoder keeps every operand bit
(30_encoding.md R91 to R98). -/
theorem and_usedMask_eq_of_decode {w w' : Word} {i : Instr} (hw : decode w = .ok i) (hw' : decode w' = .ok i) :
    w' &&& i.usedMask = w &&& i.usedMask := by
  have hrow := bitField_opcode_of_decode hw
  have hrow' := bitField_opcode_of_decode hw'
  have hop := hrow'.trans hrow.symm
  have hsame := hw'.trans hw.symm
  cases i with
  | nop | rebuild | toggleScan | toggleBlend | toggleLoop | render =>
    exact and_mask_congr (m := 0xFF000000) (n := 0) hop (fun _ hj => absurd hj (Nat.not_lt_zero _)) (by decide)
  | setStd s =>
    rw [decode_setStd w' hrow', decode_setStd w hrow, Except.ok.injEq, Instr.setStd.injEq] at hsame
    refine and_mask_congr (m := 0xFF000001) (n := 1) hop (fun j hj => ?_) (by decide)
    rw [Nat.lt_one_iff.1 hj, ← bitOf_eq_getLsbD, ← bitOf_eq_getLsbD, ofBit_injective hsame]
  | setGeom a b =>
    rw [decode_setGeom w' hrow', decode_setGeom w hrow, Except.ok.injEq, Instr.setGeom.injEq] at hsame
    obtain ⟨hwidth, hheight⟩ := hsame
    refine and_mask_congr (m := 0xFFFFFFFF) (n := 24) hop (fun j hj => ?_) (by decide)
    by_cases hj12 : j < 12
    · exact getLsbD_of_bitField_eq hheight (Nat.zero_le j) (by omega)
    · exact getLsbD_of_bitField_eq hwidth (by omega) (by omega)
  | setFrameLen len =>
    rw [decode_setFrameLen w' hrow', decode_setFrameLen w hrow, Except.ok.injEq, Instr.setFrameLen.injEq] at hsame
    exact and_mask_congr (m := 0xFFFFFFFF) (n := 24) hop
      (fun j hj => getLsbD_of_bitField_eq hsame (Nat.zero_le j) (by omega)) (by decide)
  | setPhase imm =>
    rw [decode_setPhase w' hrow', decode_setPhase w hrow, Except.ok.injEq, Instr.setPhase.injEq] at hsame
    exact and_mask_congr (m := 0xFF00FFFF) (n := 16) hop
      (fun j hj => getLsbD_of_bitField_eq hsame (Nat.zero_le j) (by omega)) (by decide)
  | adjPhase d =>
    rw [decode_adjPhase w' hrow', decode_adjPhase w hrow, Except.ok.injEq, Instr.adjPhase.injEq] at hsame
    exact and_mask_congr (m := 0xFF00FFFF) (n := 16) hop (getLsbD_of_sext16_eq hsame) (by decide)
  | setSat q =>
    rw [decode_setSat w' hrow', decode_setSat w hrow, Except.ok.injEq, Instr.setSat.injEq] at hsame
    exact and_mask_congr (m := 0xFF00FFFF) (n := 16) hop (getLsbD_of_sext16_eq hsame) (by decide)
  | adjSat d =>
    rw [decode_adjSat w' hrow', decode_adjSat w hrow, Except.ok.injEq, Instr.adjSat.injEq] at hsame
    exact and_mask_congr (m := 0xFF00FFFF) (n := 16) hop (getLsbD_of_sext16_eq hsame) (by decide)
  | setFilters scan blend loop =>
    simp only [decode_setFilters w' hrow', decode_setFilters w hrow, Except.ok.injEq, Instr.setFilters.injEq,
      bitOf_eq_getLsbD] at hsame
    obtain ⟨h0, h1, h2⟩ := hsame
    refine and_mask_congr (m := 0xFF000007) (n := 3) hop (fun j hj => ?_) (by decide)
    obtain rfl | rfl | rfl : j = 0 ∨ j = 1 ∨ j = 2 := by omega
    · exact h0
    · exact h1
    · exact h2
  | setScale n =>
    rw [decode_setScale w' hrow', decode_setScale w hrow, Except.ok.injEq, Instr.setScale.injEq] at hsame
    exact and_mask_congr (m := 0xFF00000F) (n := 4) hop
      (fun j hj => getLsbD_of_bitField_eq hsame (Nat.zero_le j) (by omega)) (by decide)

/-- A word with nothing outside a mask is its own masked word. -/
theorem and_eq_self_of_and_not {v m : Word} (h : v &&& ~~~m = 0) : v &&& m = v := by
  refine BitVec.eq_of_getLsbD_eq fun j hj => ?_
  have hbit := congrArg (·.getLsbD j) h
  simp only [BitVec.getLsbD_and, BitVec.getLsbD_not, hj, decide_true, Bool.true_and, BitVec.ofNat_eq_ofNat,
    BitVec.getLsbD_zero] at hbit
  rw [BitVec.getLsbD_and]
  cases hv : v.getLsbD j with
  | false => rfl
  | true => simpa [hv] using hbit

/-- The assembler's word of what a word decodes to is that word with its ignored bits zeroed (30_encoding.md R103). -/
theorem encode_of_decode {w : Word} {i : Instr} (h : decode w = .ok i) : encode i = w &&& i.usedMask := by
  have hwf := decode_wellFormed w i h
  rw [← and_usedMask_eq_of_decode h (decode_encode hwf), and_eq_self_of_and_not (encode_ignored_zero i hwf)]

/-! ### Words as bytes -/

/-- The four bytes of a word, in order, are the word (20_memory.md R65). -/
theorem wordOfBytes_byteOf (v : Word) : wordOfBytes (byteOf v 0) (byteOf v 1) (byteOf v 2) (byteOf v 3) = v := by
  have hv := v.isLt
  rw [← BitVec.toNat_inj, wordOfBytes, BitVec.toNat_ofNat]
  simp only [byteOf, BitVec.toNat_ofNat]
  omega

/-- The command of a 32-bit number in the opcode table's bit order is that of the word (30_encoding.md R90). -/
theorem decode_of_decodeTableWord {w : Nat} {i : Instr} (h : decodeTableWord 32 w = some i) :
    decode (BitVec.ofNat 32 (w % 2 ^ 32)) = .ok i := by
  simp only [decodeTableWord, decodeBytes, wordOfBytes_byteOf] at h
  cases hd : decode (BitVec.ofNat 32 (w % 2 ^ 32)) with
  | ok i' => rw [hd] at h; cases h; rfl
  | error e => rw [hd] at h; cases h

end Sys2Proof

namespace Sys2Proof.Machine

/-- A word written to CMD that decodes is executed (10_state.md R23). -/
theorem State.command_of_decode_ok (s : State) {w : Word} {i : Instr} (h : decode w = .ok i) : s.command w = exec i s := by
  rw [State.command, h]

end Sys2Proof.Machine
end

section
/-! The statements about encoding and decoding, and about a step that writes a command. -/

namespace Sys2Proof.Machine

/-- Settles O1, by the row of the command: the OPCODE selects it again, and its operands fit their fields. -/
theorem decodeEncodeRoundTrip : Obligations.DecodeEncodeRoundTrip := fun _ => decode_encode

/-- Settles O2: both words decode to the command, so they agree on its used bits, and the assembler's has no others. -/
theorem encodeOfDecodeKeepsUsedBits : Obligations.EncodeOfDecodeKeepsUsedBits := fun _ _ => encode_of_decode

/-- Settles O5: closed words, evaluated. -/
theorem wordsDecodeAsWrittenOut : Obligations.WordsDecodeAsWrittenOut := by
  unfold Obligations.WordsDecodeAsWrittenOut
  decide

/-- Settles O7: the turn and the line are taken off, the access is answered OK, and the command unit executes the word. -/
theorem stepRunsDecodedCommand : Obligations.StepRunsDecodedCommand := by
  have hcommand (s : State) (w : Word) (i : Instr) (ps : List HostOp) (ts : List Agent) (ht : s.turns = .host :: ts)
      (hp : s.prog = .access (.write 0 .word w) :: ps) (hd : decode w = .ok i) :
      step s = exec i { s with turns := ts, prog := ps, resp := .ok } := by
    rw [step_of_access s _ ps ts ht hp, State.access_writeCmd, State.command_of_decode_ok _ hd]
    rfl
  exact ⟨hcommand, fun s w i _ hi =>
    hcommand (s.withFetchWord 32 w) _ i s.prog s.turns rfl rfl (decode_of_decodeTableWord hi)⟩

end Sys2Proof.Machine
end

section
/-! SUPPORT. Where each field of a register stands in the word the host reads (10_state.md section 2). -/

namespace Sys2Proof.Machine

/-- A bit of a field placed at bit `i` of a word. -/
theorem placed_getLsbD {n : Nat} (x : BitVec n) (i : Nat) {j : Nat} (hj : j < 32) :
    (x.setWidth 32 <<< i).getLsbD j = (decide (i ≤ j) && x.getLsbD (j - i)) := by
  rw [BitVec.getLsbD_shiftLeft, BitVec.getLsbD_setWidth, decide_eq_true hj, decide_eq_true (show j - i < 32 by omega),
    Bool.true_and, Bool.true_and]
  by_cases h : i ≤ j
  · rw [decide_eq_false (Nat.not_lt.2 h), decide_eq_true h]; rfl
  · rw [decide_eq_true (Nat.not_le.1 h), decide_eq_false h]; rfl

theorem Bank.bit_eq_decide (b : Bank) : b.bit = decide (b = .bank1) := by cases b <;> rfl

theorem Std.bit_eq_decide (s : Std) : s.bit = decide (s = .stdB) := by cases s <;> rfl

/-! ### STATUS (10_state.md R24) -/

section
variable (st : Status) {j : Nat}

/-- Every bit of the STATUS word, as the OR of its fields' bits. -/
theorem Status.word_getLsbD (hj : j < 32) : st.word.getLsbD j =
    (st.buildBusy && decide (0 = j) || st.buildPending && decide (1 = j) || st.palValid && decide (2 = j) ||
      st.activeBank.bit && decide (3 = j) || st.renderBusy && decide (4 = j) || st.renderDone && decide (5 = j) ||
      st.fatal && decide (6 = j) || st.err && decide (7 = j) || decide (8 ≤ j) && st.errFirst.getLsbD (j - 8) ||
      decide (16 ≤ j) && st.errBits.getLsbD (j - 16)) := by
  simp (disch := omega) only [Status.word, BitVec.getLsbD_or, bitAt_getLsbD, placed_getLsbD]

/-- Above the flags stand the two error fields. -/
theorem Status.word_getLsbD_high (hlo : 8 ≤ j) (hj : j < 32) :
    st.word.getLsbD j = (st.errFirst.getLsbD (j - 8) || decide (16 ≤ j) && st.errBits.getLsbD (j - 16)) := by
  have hne (i : Nat) (hi : i < 8) : decide (i = j) = false := decide_eq_false (by omega)
  simp (disch := omega) only [Status.word_getLsbD st hj, hne, hlo, decide_true, Bool.and_false, Bool.false_or, Bool.true_and]

/-- From bit 16 on ERR_BITS stands alone: ERR_FIRST has ended. -/
theorem Status.word_getLsbD_errBits (hlo : 16 ≤ j) (hj : j < 32) : st.word.getLsbD j = st.errBits.getLsbD (j - 16) := by
  rw [st.word_getLsbD_high (by omega) hj, BitVec.getLsbD_of_ge st.errFirst _ (by omega), decide_eq_true hlo, Bool.false_or,
    Bool.true_and]

/-- Below bit 16 there is no bit of ERR_BITS. -/
theorem Status.word_getLsbD_errFirst (hlo : 8 ≤ j) (hj : j < 16) : st.word.getLsbD j = st.errFirst.getLsbD (j - 8) := by
  rw [st.word_getLsbD_high hlo (by omega), decide_eq_false (by omega), Bool.false_and, Bool.or_false]

theorem Status.word_errFirst : st.word.extractLsb' 8 4 = st.errFirst := by
  refine BitVec.eq_of_getLsbD_eq fun k hk => ?_
  rw [BitVec.getLsbD_extractLsb', decide_eq_true hk, Bool.true_and, st.word_getLsbD_errFirst (by omega) (by omega),
    Nat.add_sub_cancel_left]

theorem Status.word_reserved_mid : st.word.extractLsb' 12 4 = 0 := by
  refine BitVec.eq_of_getLsbD_eq fun k hk => ?_
  rw [BitVec.getLsbD_extractLsb', st.word_getLsbD_errFirst (by omega) (by omega),
    BitVec.getLsbD_of_ge st.errFirst _ (by omega), Bool.and_false, BitVec.ofNat_eq_ofNat, BitVec.getLsbD_zero]

theorem Status.word_errBits : st.word.extractLsb' 16 8 = st.errBits := by
  refine BitVec.eq_of_getLsbD_eq fun k hk => ?_
  rw [BitVec.getLsbD_extractLsb', decide_eq_true hk, Bool.true_and, st.word_getLsbD_errBits (by omega) (by omega),
    Nat.add_sub_cancel_left]

theorem Status.word_reserved_high : st.word.extractLsb' 24 8 = 0 := by
  refine BitVec.eq_of_getLsbD_eq fun k hk => ?_
  rw [BitVec.getLsbD_extractLsb', st.word_getLsbD_errBits (by omega) (by omega),
    BitVec.getLsbD_of_ge st.errBits _ (by omega), Bool.and_false, BitVec.ofNat_eq_ofNat, BitVec.getLsbD_zero]

/-- The flags are the low eight bits. -/
theorem Status.word_flags : st.word.getLsbD 0 = st.buildBusy ∧ st.word.getLsbD 1 = st.buildPending ∧
    st.word.getLsbD 2 = st.palValid ∧ st.word.getLsbD 3 = st.activeBank.bit ∧ st.word.getLsbD 4 = st.renderBusy ∧
    st.word.getLsbD 5 = st.renderDone ∧ st.word.getLsbD 6 = st.fatal ∧ st.word.getLsbD 7 = st.err := by
  refine ⟨?_, ?_, ?_, ?_, ?_, ?_, ?_, ?_⟩ <;> rw [st.word_getLsbD (by decide)] <;> simp

end

/-- BUILD_PENDING and BUILD_BUSY read 0 once no build is requested or running (41_palette.md R163). -/
theorem Status.word_build_zero {st : Status} (h : st.buildEnabled = false) :
    st.word.getLsbD 1 = false ∧ st.word.getLsbD 0 = false := by
  obtain ⟨hbusy, hpending, -⟩ := st.word_flags
  obtain ⟨hb, hp⟩ := Bool.or_eq_false_iff.1 h
  exact ⟨hpending.trans hp, hbusy.trans hb⟩

/-! ### The read-only registers (10_state.md R26 to R31) -/

section
variable (c : Ctrl)

/-- Every bit of the CTRL word. -/
theorem Ctrl.word_getLsbD {j : Nat} (hj : j < 32) : c.word.getLsbD j =
    (c.scanEn && decide (0 = j) || c.blendEn && decide (1 = j) || c.loopEn && decide (2 = j) || c.std.bit && decide (3 = j) ||
      decide (4 ≤ j) && c.scale.getLsbD (j - 4)) := by
  simp (disch := omega) only [Ctrl.word, BitVec.getLsbD_or, bitAt_getLsbD, placed_getLsbD]

/-- Above the four flags stands SCALE alone. -/
theorem Ctrl.word_getLsbD_high {j : Nat} (hlo : 4 ≤ j) (hj : j < 32) : c.word.getLsbD j = c.scale.getLsbD (j - 4) := by
  have hne (i : Nat) (hi : i < 4) : decide (i = j) = false := decide_eq_false (by omega)
  simp (disch := omega) only [Ctrl.word_getLsbD c hj, hne, hlo, decide_true, Bool.and_false, Bool.false_or, Bool.true_and]

theorem Ctrl.word_flags : c.word.getLsbD 0 = c.scanEn ∧ c.word.getLsbD 1 = c.blendEn ∧ c.word.getLsbD 2 = c.loopEn ∧
    c.word.getLsbD 3 = c.std.bit := by
  refine ⟨?_, ?_, ?_, ?_⟩ <;> rw [c.word_getLsbD (by decide)] <;> simp

theorem Ctrl.word_scale : c.word.extractLsb' 4 4 = c.scale := by
  refine BitVec.eq_of_getLsbD_eq fun k hk => ?_
  rw [BitVec.getLsbD_extractLsb', decide_eq_true hk, Bool.true_and, c.word_getLsbD_high (by omega) (by omega),
    Nat.add_sub_cancel_left]

theorem Ctrl.word_reserved : c.word.extractLsb' 8 24 = 0 := by
  refine BitVec.eq_of_getLsbD_eq fun k hk => ?_
  rw [BitVec.getLsbD_extractLsb', c.word_getLsbD_high (by omega) (by omega), BitVec.getLsbD_of_ge c.scale _ (by omega),
    Bool.and_false, BitVec.ofNat_eq_ofNat, BitVec.getLsbD_zero]

end

/-- GEOM is W above the 12 bits of H (10_state.md R30). -/
theorem State.geomWord_toNat (s : State) : s.geomWord.toNat = s.geomW.toNat * 4096 + s.geomH.toNat := by
  have hw := s.geomW.isLt
  have hh := s.geomH.isLt
  have hplaced : (s.geomW.setWidth 32 <<< 12).toNat = 4096 * s.geomW.toNat := by
    rw [BitVec.toNat_shiftLeft, BitVec.toNat_setWidth_of_le (by decide), Nat.shiftLeft_eq, Nat.mod_eq_of_lt (by omega)]
    exact Nat.mul_comm _ _
  have hor : 4096 * s.geomW.toNat ||| s.geomH.toNat = 4096 * s.geomW.toNat + s.geomH.toNat :=
    (Nat.two_pow_add_eq_or_of_lt hh s.geomW.toNat).symm
  rw [State.geomWord, BitVec.toNat_or, hplaced, BitVec.toNat_setWidth_of_le (by decide), hor, Nat.mul_comm]

end Sys2Proof.Machine
end

section
/-! The statements about the words of the registers, and what a polled STATUS says of the palette. -/

namespace Sys2Proof.Machine

/-- Settles O26: the flags are the low bits of the word, and from bit 8 on it is the two error fields and zeros. -/
theorem statusWordLayout : Obligations.StatusWordLayout := by
  intro s
  obtain ⟨h0, h1, h2, h3, h4, h5, h6, h7⟩ := s.status.word_flags
  rw [State.readReg_status]
  exact ⟨h0, h1, h2, h3.trans (Bank.bit_eq_decide _), h4, h5, h6, h7, s.status.word_errFirst, s.status.word_reserved_mid,
    s.status.word_errBits, s.status.word_reserved_high⟩

/-- Settles O27: CTRL bit by bit, the others as numbers; the level outputs are the fields their bits of CTRL show. -/
theorem readOnlyRegisterWords : Obligations.ReadOnlyRegisterWords := by
  intro s
  obtain ⟨hscan, hblend, hloop, hstd⟩ := s.ctrl.word_flags
  rw [State.readReg_ctrl, State.readReg_phase, State.readReg_sat, State.readReg_geom, State.readReg_frameLen]
  exact ⟨⟨hscan, hblend, hloop, hstd.trans (Std.bit_eq_decide _), s.ctrl.word_scale, s.ctrl.word_reserved⟩,
    BitVec.toNat_setWidth_of_le (by decide), BitVec.toNat_setWidth_of_le (by decide), s.geomWord_toNat,
    BitVec.toNat_setWidth_of_le (by decide), hstd.symm, hloop.symm⟩

/-- Settles O42: bits 2:0 of the polled word are PAL_VALID, BUILD_PENDING and BUILD_BUSY, and the invariant's last clause is about
exactly the state they show. -/
theorem polledPaletteIsCurrent : Obligations.PolledPaletteIsCurrent := by
  intro s hs hpoll
  obtain ⟨hbusy, hpending, hvalid, -⟩ := s.status.word_flags
  have hbit (k : Nat) (hk : (7 : Word).getLsbD k = true) : s.status.word.getLsbD k = (4 : Word).getLsbD k := by
    have h := congrArg (·.getLsbD k) hpoll
    simpa only [State.readReg_status, BitVec.getLsbD_and, hk, Bool.and_true] using h
  exact hs.current (hvalid.symm.trans (hbit 2 (by decide))) (hpending.symm.trans (hbit 1 (by decide)))
    (hbusy.symm.trans (hbit 0 (by decide)))

end Sys2Proof.Machine
end

section
/-! SUPPORT. What a host write, the engines and reset leave unchanged, as updates of the state (20_memory.md R70, 41_palette.md
section 3, 42_render.md section 3). -/

namespace Sys2Proof.Machine

section
variable (s : State)

/-- A memory write changes the two memories at most. -/
theorem State.memWrite_frame (sp : Space) (off : Nat) (v : Word) (n : Nat) :
    s.memWrite sp off v n = { s with inMem := (s.memWrite sp off v n).inMem, outMem := (s.memWrite sp off v n).outMem } := by
  conv_lhs => rw [State.memWrite_eq_setMem]
  rw [State.memWrite_eq_setMem]
  cases sp <;> rfl

/-- A host write changes the memories, and when it is a hazard R_TAINT and the error state with them (20_memory.md R70). -/
theorem State.hostWrite_frame (sp : Space) (off n : Nat) (v : Word) : ∃ m m' : Memory,
    s.hostWrite sp off n v = { s with inMem := m, outMem := m' } ∨
      s.hostWrite sp off n v = ({ s with inMem := m, outMem := m' } : State).taintRender.recordError .renderHazard := by
  refine ⟨(s.memWrite sp off v n).inMem, (s.memWrite sp off v n).outMem, ?_⟩
  rw [State.hostWrite]
  split
  · right; exact congrArg (fun u => u.taintRender.recordError .renderHazard) (s.memWrite_frame sp off v n)
  · left; exact s.memWrite_frame sp off v n

/-- A write to a register other than CMD clears bits of STATUS, stores PAL_INDEX or is ignored (10_state.md R25, R32, R35). -/
theorem State.writeReg_cases (off : Nat) (v : Word) :
    s.writeReg off v = s.setStatus (s.status.write v) ∨ s.writeReg off v = s.setPalIndex (v.extractLsb' 0 8) ∨
      s.writeReg off v = s := by
  unfold State.writeReg
  split
  · exact .inl rfl
  · exact .inr (.inl rfl)
  · exact .inr (.inr rfl)

/-- The render engine performs, or its turn changes nothing (42_render.md R201; log 13). -/
theorem State.renderStep_cases :
    (s.status.renderEnabled = true ∧ s.renderStep = s.performRender) ∨
      (s.status.renderEnabled = false ∧ s.renderStep = s) := by
  unfold State.renderStep
  cases s.status.renderEnabled <;> simp

/-- The perform step changes OUT_MEM, the counter of free values, RENDER_BUSY and RENDER_DONE alone (42_render.md R201). -/
theorem State.performRender_eq : s.performRender = { s with
    outMem := s.performRender.outMem, draws := s.performRender.draws
    status := { s.status with renderBusy := false, renderDone := true } } := by
  unfold State.performRender
  split <;> rfl

/-- Whatever the build engine's step does, it stays inside the banks, the build snapshot and its fields of STATUS
(60_exceptions.md R231). -/
theorem State.buildStep_frame : ∃ (b : BuildSnap) (p p' : Palette) (busy pending valid : Bool) (k : Bank),
    s.buildStep = { s with
      build := b, pal0 := p, pal1 := p'
      status := { s.status with buildBusy := busy, buildPending := pending, palValid := valid, activeBank := k } } := by
  obtain ⟨-, e⟩ | ⟨-, -, e⟩ | ⟨-, -, e⟩ := s.buildStep_cases <;> rw [e]
  · exact ⟨s.build, _, _, false, s.status.buildPending, true, s.status.activeBank.other, s.completeBuild_eq⟩
  · exact ⟨_, s.pal0, s.pal1, true, false, s.status.palValid, s.status.activeBank, rfl⟩
  · exact ⟨s.build, s.pal0, s.pal1, s.status.buildBusy, s.status.buildPending, s.status.palValid, s.status.activeBank, rfl⟩

/-- Whatever the render engine's step does, it stays inside OUT_MEM, the counter of free values, RENDER_BUSY and RENDER_DONE
(60_exceptions.md R231). -/
theorem State.renderStep_frame : ∃ (m : Memory) (busy done : Bool) (n : Nat),
    s.renderStep = { s with
      outMem := m, draws := n, status := { s.status with renderBusy := busy, renderDone := done } } := by
  obtain ⟨-, e⟩ | ⟨-, e⟩ := s.renderStep_cases <;> rw [e]
  · exact ⟨_, false, true, _, s.performRender_eq⟩
  · exact ⟨s.outMem, s.status.renderBusy, s.status.renderDone, s.draws, rfl⟩

end

end Sys2Proof.Machine
end

section
/-! SUPPORT. Properties the host's steps keep, stated once over the operations a host step is made of (20_memory.md R60). -/

namespace Sys2Proof.Machine

/-- A property of states that every operation of a host step keeps: taking the line off and answering it, clearing bits of STATUS,
storing PAL_INDEX, writing a memory inside its size, tainting a render, and every command, which covers recording an error. -/
structure KeptByHost (C : State → Prop) : Prop where
  answer : ∀ {u} ps n r, C u → C (((u.setProg ps).setDraws n).setResp r)
  writeStatus : ∀ {u} v, C u → C (u.setStatus (u.status.write v))
  writePalIndex : ∀ {u} x, C u → C (u.setPalIndex x)
  memWrite : ∀ {u} sp off v n, off + n ≤ memBytes u.cfg sp → C u → C (u.memWrite sp off v n)
  taint : ∀ {u}, C u → C u.taintRender
  command : ∀ {u u'}, C u → CommandResult u u' → C u'

/-- Such a property holds after any step that is not reset's, provided the engines' steps keep it. -/
theorem KeptByHost.stepResult {C : State → Prop} (hC : KeptByHost C) {s t : State} (hs : StepResult s t) (h : C s)
    (hbuild : C s.buildStep) (hrender : C s.renderStep) : C t := by
  have hanswered (ps : List HostOp) : C ((s.setProg ps).setResp .ok) := hC.answer ps s.draws .ok h
  cases hs with
  | idle => exact h
  | build => exact hbuild
  | render => exact hrender
  | read ps n r => exact hC.answer ps n r h
  | writeReg ps addr n v off _ _ =>
    obtain e | e | e := ((s.setProg ps).setResp .ok).writeReg_cases off v <;> rw [e]
    · exact hC.writeStatus v (hanswered ps)
    · exact hC.writePalIndex _ (hanswered ps)
    · exact hanswered ps
  | writeMem ps addr n v sp off _ hin =>
    have hwritten := hC.memWrite (u := (s.setProg ps).setResp .ok) sp off v n.bytes hin (hanswered ps)
    rw [State.hostWrite]
    split
    · exact hC.command (hC.taint hwritten) (.error .renderHazard)
    · exact hwritten
  | illegal ps v e _ _ => exact hC.command (hanswered ps) (.error .illegalOpcode)
  | command ps v i _ _ hd he => exact hC.command (hanswered ps) (exec_cases i _ t (decode_wellFormed v i hd) he)

end Sys2Proof.Machine
end

section
/-! SUPPORT. What every step keeps: the parts of the machine invariant, over the commands, the host's other steps, the engines and
reset (10_state.md sections 2 and 4, 20_memory.md sections 3 and 4, 60_exceptions.md section 2). -/

namespace Sys2Proof.Machine
variable {s t : State}

/-! ### The configuration (00_scope.md R12) -/

theorem CommandResult.cfg (h : CommandResult s t) : t.cfg = s.cfg := by cases h <;> rfl

theorem keptByHost_cfg (cfg : Config) : KeptByHost fun u => u.cfg = cfg where
  answer _ _ _ h := h
  writeStatus _ h := h
  writePalIndex _ h := h
  memWrite sp off v n _ h := by rwa [State.memWrite_frame]
  taint h := h
  command h hc := hc.cfg.trans h

theorem State.buildStep_cfg (s : State) : s.buildStep.cfg = s.cfg := by
  obtain ⟨b, p, p', busy, pending, valid, k, e⟩ := s.buildStep_frame
  rw [e]

theorem State.renderStep_cfg (s : State) : s.renderStep.cfg = s.cfg := by
  obtain ⟨m, busy, done, n, e⟩ := s.renderStep_frame
  rw [e]

theorem StepResult.cfg (hs : StepResult s t) : t.cfg = s.cfg :=
  (keptByHost_cfg s.cfg).stepResult hs rfl s.buildStep_cfg s.renderStep_cfg

/-! ### The registers (10_state.md R26 to R30, R38) -/

theorem RegistersInRange.command (h : RegistersInRange s) (hc : CommandResult s t) : RegistersInRange t := by
  cases hc with
  | nothing => exact h
  | ctrl c _ hscale =>
    refine { h with scale := ?_ }
    obtain e | hne := hscale
    · rw [State.setCtrl_ctrl, e]
      exact h.scale
    · exact hne
  | phase p hp => exact { h with phase := hp }
  | sat q hq => exact { h with sat := hq }
  | geom w g hw hg => exact { h with geom := iff_of_false hw hg }
  | error | std | frameLen | request | accept => exact { h with }

theorem keptByHost_registersInRange : KeptByHost RegistersInRange where
  answer _ _ _ h := { h with }
  writeStatus _ h := { h with }
  writePalIndex _ h := { h with }
  memWrite sp off v n _ h := by rw [State.memWrite_frame]; exact { h with }
  taint h := { h with }
  command := RegistersInRange.command

theorem RegistersInRange.buildStep (h : RegistersInRange s) : RegistersInRange s.buildStep := by
  obtain ⟨-, e⟩ | ⟨-, -, e⟩ | ⟨-, -, e⟩ := s.buildStep_cases <;> rw [e]
  · rw [s.completeBuild_eq]
    exact { h with buildPhase := fun hb => (by cases hb), buildSat := fun hb => (by cases hb) }
  · exact { h with buildPhase := fun _ => h.phase, buildSat := fun _ => h.sat }
  · exact h

theorem RegistersInRange.renderStep (h : RegistersInRange s) : RegistersInRange s.renderStep := by
  obtain ⟨m, busy, done, n, e⟩ := s.renderStep_frame
  rw [e]
  exact { h with }

theorem RegistersInRange.applyReset (s : State) : RegistersInRange s.applyReset where
  phase := (by decide : (0 : BitVec 16).toNat < 36000)
  sat := (by decide : (0x0100 : BitVec 16).toNat ≤ 0x7FFF)
  scale := (by decide : (1 : BitVec 4) ≠ 0)
  geom := Iff.rfl
  buildPhase hb := by cases hb
  buildSat hb := by cases hb

/-! ### The error state (10_state.md R24, R25, 60_exceptions.md R222, R225) -/

/-- Recording an error keeps the error state consistent: a first code stands where a bit does, and code 6 sets FATAL. -/
theorem ErrorsConsistent.recordError (h : ErrorsConsistent s) (c : ErrorCode) : ErrorsConsistent (s.recordError c) := by
  obtain ⟨hmin, hmax⟩ := c.num_range
  have hnum := c.ofNat_num_toNat
  have hcode : BitVec.ofNat 4 c.num ≠ 0 := fun h0 => by
    rw [h0] at hnum
    exact absurd hnum (Nat.ne_of_lt hmin)
  refine ⟨iff_of_false (Status.record_errBits_ne_zero s.status c) ?first, ?code, ?fatal⟩
  case first =>
    rw [State.recordError_status, Status.record_errFirst]
    split
    next => exact hcode
    next hsome => exact fun h0 => hsome (h.first.2 h0)
  case code =>
    rw [State.recordError_status, Status.record_errFirst]
    split
    · exact hnum.trans_le hmax
    · exact h.code
  case fatal =>
    rw [State.recordError_status, Status.record_errBits, Status.record_fatal, BitVec.getLsbD_or, c.bit_getLsbD,
      Bool.or_eq_true, Bool.or_eq_true, decide_eq_true_eq, decide_eq_true_eq, c.eq_geometryMismatch_iff]
    exact Or.imp h.fatal (by omega)

/-- Clearing bits of ERR_BITS keeps it consistent: ERR_FIRST goes with the last bit (10_state.md R25). -/
theorem ErrorsConsistent.writeStatus (h : ErrorsConsistent s) (v : Word) :
    ErrorsConsistent (s.setStatus (s.status.write v)) := by
  refine ⟨?first, ?code, ?fatal⟩
  case first =>
    rw [State.setStatus_status, Status.write_errBits, Status.write_errFirst]
    split
    next hnone => exact iff_of_true hnone rfl
    next hleft =>
      refine iff_of_false hleft fun h0 => hleft ?_
      rw [Status.errBitsAfter, h.first.2 h0]
      exact BitVec.zero_and
  case code =>
    rw [State.setStatus_status, Status.write_errFirst]
    split
    · exact Nat.zero_le 8
    · exact h.code
  case fatal =>
    rw [State.setStatus_status, Status.write_errBits, Status.write_fatal, Status.errBitsAfter_getLsbD _ _ _ (by decide),
      Bool.and_eq_true]
    exact fun hbit => h.fatal hbit.1

theorem ErrorsConsistent.command (h : ErrorsConsistent s) (hc : CommandResult s t) : ErrorsConsistent t := by
  cases hc with
  | error c => exact h.recordError c
  | nothing => exact h
  | ctrl | std | phase | sat | geom | frameLen | request | accept => exact { h with }

theorem keptByHost_errorsConsistent : KeptByHost ErrorsConsistent where
  answer _ _ _ h := { h with }
  writeStatus v h := h.writeStatus v
  writePalIndex _ h := { h with }
  memWrite sp off v n _ h := by rw [State.memWrite_frame]; exact { h with }
  taint h := { h with }
  command := ErrorsConsistent.command

theorem ErrorsConsistent.buildStep (h : ErrorsConsistent s) : ErrorsConsistent s.buildStep := by
  obtain ⟨b, p, p', busy, pending, valid, k, e⟩ := s.buildStep_frame
  rw [e]
  exact { h with }

theorem ErrorsConsistent.renderStep (h : ErrorsConsistent s) : ErrorsConsistent s.renderStep := by
  obtain ⟨m, busy, done, n, e⟩ := s.renderStep_frame
  rw [e]
  exact { h with }

theorem ErrorsConsistent.applyReset (s : State) : ErrorsConsistent s.applyReset where
  first := iff_of_true rfl rfl
  code := Nat.zero_le 8
  fatal hbit := absurd hbit (by decide : ¬(0 : BitVec 8).getLsbD 5 = true)

/-! ### The accepted render (42_render.md R190, 20_memory.md R68) -/

theorem RenderFits.of_idle (h : s.status.renderBusy = false) : RenderFits s := by
  have hno : s.status.renderBusy ≠ true := by rw [h]; exact Bool.false_ne_true
  exact ⟨fun hb => absurd hb hno, fun hb => absurd hb hno, fun hb => absurd hb hno, fun hb => absurd hb hno,
    fun hb => absurd hb hno, fun hb => absurd hb hno⟩

/-- An accepted RENDER has passed its checks, and SCALE is never 0. -/
theorem RenderFits.acceptRender (hr : RegistersInRange s) (hcheck : s.renderCheck = none) : RenderFits s.acceptRender := by
  obtain ⟨-, -, hw, hh, -, hin, hout⟩ := s.renderCheck_eq_none.1 hcheck
  exact ⟨fun _ => hw, fun _ => hh, fun _ => hr.scale, fun _ => hin, fun _ => hout, fun _ => rfl⟩

theorem RenderFits.command (hr : RegistersInRange s) (h : RenderFits s) (hc : CommandResult s t) : RenderFits t := by
  cases hc with
  | nothing => exact h
  | accept hcheck => exact .acceptRender hr hcheck
  | error | ctrl | std | phase | sat | geom | frameLen | request => exact { h with }

/-- Clearing RENDER_DONE announces no completion. -/
theorem RenderFits.writeStatus (h : RenderFits s) (v : Word) : RenderFits (s.setStatus (s.status.write v)) :=
  { h with notDone := fun hb => by rw [State.setStatus_status, Status.write_renderDone, h.notDone hb, Bool.false_and] }

theorem keptByHost_renderFits : KeptByHost fun u => RegistersInRange u ∧ RenderFits u where
  answer ps n r := fun ⟨hr, h⟩ => ⟨keptByHost_registersInRange.answer ps n r hr, { h with }⟩
  writeStatus v := fun ⟨hr, h⟩ => ⟨keptByHost_registersInRange.writeStatus v hr, h.writeStatus v⟩
  writePalIndex x := fun ⟨hr, h⟩ => ⟨keptByHost_registersInRange.writePalIndex x hr, { h with }⟩
  memWrite sp off v n hin := fun ⟨hr, h⟩ =>
    ⟨keptByHost_registersInRange.memWrite sp off v n hin hr, by rw [State.memWrite_frame]; exact { h with }⟩
  taint := fun ⟨hr, h⟩ => ⟨keptByHost_registersInRange.taint hr, { h with }⟩
  command := fun ⟨hr, h⟩ hc => ⟨hr.command hc, h.command hr hc⟩

theorem RenderFits.buildStep (h : RenderFits s) : RenderFits s.buildStep := by
  obtain ⟨b, p, p', busy, pending, valid, k, e⟩ := s.buildStep_frame
  rw [e]
  exact { h with }

theorem RenderFits.renderStep (h : RenderFits s) : RenderFits s.renderStep := by
  obtain ⟨-, e⟩ | ⟨-, e⟩ := s.renderStep_cases <;> rw [e]
  · rw [s.performRender_eq]
    exact .of_idle rfl
  · exact h

/-! ### The memories (20_memory.md R61, R62) -/

/-- The same of each memory by its name. -/
theorem memoriesCanonical_iff : MemoriesCanonical s ↔
    ∀ sp, Memory.wf (s.mem sp) = true ∧ listedBelow (s.mem sp) (memBytes s.cfg sp) := by
  constructor
  · intro h sp
    cases sp with
    | inMem => exact ⟨h.inWf, h.inBound⟩
    | outMem => exact ⟨h.outWf, h.outBound⟩
  · intro h
    exact ⟨(h .inMem).1, (h .outMem).1, (h .inMem).2, (h .outMem).2⟩

/-- A write inside a memory's size lists bytes that exist. -/
theorem MemoriesCanonical.memWrite (h : MemoriesCanonical s) {sp : Space} {off : Nat} (v : Word) {n : Nat}
    (hin : off + n ≤ memBytes s.cfg sp) : MemoriesCanonical (s.memWrite sp off v n) := by
  have hcfg : (s.memWrite sp off v n).cfg = s.cfg := by rw [State.memWrite_frame]
  rw [memoriesCanonical_iff] at h ⊢
  intro sp'
  obtain ⟨hwf, hbound⟩ := h sp'
  refine ⟨s.wf_memWrite sp sp' off n v hwf, fun c hc => ?_⟩
  rw [hcfg]
  obtain ⟨rfl, -, hlt⟩ | hold := s.mem_memWrite sp sp' off n v c hc
  · omega
  · exact hbound c hold

theorem keptByHost_memoriesCanonical : KeptByHost MemoriesCanonical where
  answer _ _ _ h := { h with }
  writeStatus _ h := { h with }
  writePalIndex _ h := { h with }
  memWrite _ _ v _ hin h := h.memWrite v hin
  taint h := { h with }
  command h hc := by cases hc <;> exact { h with }

theorem MemoriesCanonical.buildStep (h : MemoriesCanonical s) : MemoriesCanonical s.buildStep := by
  obtain ⟨b, p, p', busy, pending, valid, k, e⟩ := s.buildStep_frame
  rw [e]
  exact { h with }

/-- The perform step writes the render region, which fits OUT_MEM (20_memory.md R68, 42_render.md R201). -/
theorem MemoriesCanonical.renderStep (h : MemoriesCanonical s) (hfits : RenderFits s) : MemoriesCanonical s.renderStep := by
  obtain ⟨hen, e⟩ | ⟨-, e⟩ := s.renderStep_cases <;> rw [e]
  · obtain ⟨hbusy, -⟩ := Bool.and_eq_true_iff.1 hen
    obtain ⟨n, e⟩ := s.performRender_spec
    rw [e]
    refine { h with outWf := Memory.wf_setPrefix _ _ h.outWf, outBound := fun c hc => ?_ }
    obtain hlt | hold := Memory.mem_setPrefix _ _ c hc
    · exact (hlt.trans_eq s.performed_length).trans_le (hfits.output hbusy)
    · exact h.outBound c hold
  · exact h

theorem MemoriesCanonical.applyReset (s : State) : MemoriesCanonical s.applyReset where
  inWf := rfl
  outWf := rfl
  inBound _ hc := by cases hc
  outBound _ hc := by cases hc

/-! ### The palette (20_memory.md R72, R74) -/

/-- A request may change the inputs: it announces a build, and the active bank stays. -/
theorem PaletteCurrent.of_request (h : PaletteCurrent s) (hcfg : t.cfg = s.cfg) (hbank : t.bank = s.bank)
    (hstatus : t.status = { s.status with buildPending := true }) : PaletteCurrent t := by
  have hpending : t.status.buildPending = true := by rw [hstatus]
  refine ⟨fun _ => .inl hpending, fun _ hp => ?_, fun hv => ?_, fun _ hp => ?_⟩
  · cases hpending.symm.trans hp
  · rw [hstatus] at hv ⊢
    rw [hcfg, hbank]
    exact h.whole hv
  · cases hpending.symm.trans hp

/-- CTRL without STD is no input of the palette (41_palette.md R151). -/
theorem PaletteCurrent.setCtrl (h : PaletteCurrent s) {c : Ctrl} (hstd : c.std = s.ctrl.std) : PaletteCurrent (s.setCtrl c) :=
  { h with
    snapshot := fun hb hp => (h.snapshot hb hp).trans (by rw [State.setCtrl_ctrl, hstd]; rfl)
    current := fun hv hp hb => (h.current hv hp hb).trans (by rw [State.setCtrl_ctrl, hstd]; rfl) }

theorem PaletteCurrent.command (h : PaletteCurrent s) (hc : CommandResult s t) : PaletteCurrent t := by
  cases hc with
  | nothing => exact h
  | ctrl c hstd _ => exact h.setCtrl hstd
  | std | phase | sat | request => exact h.of_request rfl rfl rfl
  | error | geom | frameLen | accept => exact { h with }

theorem keptByHost_paletteCurrent : KeptByHost PaletteCurrent where
  answer _ _ _ h := { h with }
  writeStatus _ h := { h with }
  writePalIndex _ h := { h with }
  memWrite sp off v n _ h := by rw [State.memWrite_frame]; exact { h with }
  taint h := { h with }
  command := PaletteCurrent.command

/-- A build that starts takes the current inputs (41_palette.md R160). -/
theorem PaletteCurrent.startBuild (h : PaletteCurrent s) : PaletteCurrent s.startBuild where
  requested _ := .inr rfl
  snapshot _ _ := rfl
  whole := h.whole
  current _ _ hb := by cases hb

/-- A build that completes publishes the table of its snapshot, which is the current inputs unless another build is requested
(41_palette.md R161). -/
theorem PaletteCurrent.completeBuild (h : PaletteCurrent s) (hr : RegistersInRange s) (hbusy : s.status.buildBusy = true) :
    PaletteCurrent s.completeBuild where
  requested hv := by cases hv
  snapshot hb := by cases hb
  whole _ := by
    rw [s.completeBuild_active, s.completeBuild_eq]
    exact ⟨_, _, _, hr.buildPhase hbusy, hr.buildSat hbusy, rfl⟩
  current _ hp _ := by
    rw [s.completeBuild_active, State.builtTable, h.snapshot hbusy hp, s.completeBuild_eq]

theorem PaletteCurrent.buildStep (h : PaletteCurrent s) (hr : RegistersInRange s) : PaletteCurrent s.buildStep := by
  obtain ⟨hbusy, e⟩ | ⟨-, -, e⟩ | ⟨-, -, e⟩ := s.buildStep_cases <;> rw [e]
  · exact h.completeBuild hr hbusy
  · exact h.startBuild
  · exact h

theorem PaletteCurrent.renderStep (h : PaletteCurrent s) : PaletteCurrent s.renderStep := by
  obtain ⟨m, busy, done, n, e⟩ := s.renderStep_frame
  rw [e]
  exact { h with }

/-- After reset the first build is requested (10_state.md R42). -/
theorem PaletteCurrent.applyReset (s : State) : PaletteCurrent s.applyReset where
  requested _ := .inl rfl
  snapshot hb := by cases hb
  whole hv := by cases hv
  current hv := by cases hv

theorem PaletteCurrent.stepResult (h : PaletteCurrent s) (hr : RegistersInRange s) (hs : StepResult s t) : PaletteCurrent t :=
  keptByHost_paletteCurrent.stepResult hs h (h.buildStep hr) h.renderStep

/-! ### The whole invariant -/

theorem StateInv.stepResult (h : StateInv s) (hs : StepResult s t) : StateInv t where
  legal := hs.cfg ▸ h.legal
  registers := keptByHost_registersInRange.stepResult hs h.registers h.registers.buildStep h.registers.renderStep
  errors := keptByHost_errorsConsistent.stepResult hs h.errors h.errors.buildStep h.errors.renderStep
  render := (keptByHost_renderFits.stepResult hs ⟨h.registers, h.render⟩ ⟨h.registers.buildStep, h.render.buildStep⟩
    ⟨h.registers.renderStep, h.render.renderStep⟩).2
  memories := keptByHost_memoriesCanonical.stepResult hs h.memories h.memories.buildStep (h.memories.renderStep h.render)
  palette := h.palette.stepResult h.registers hs

theorem RegistersInRange.chosen (h : RegistersInRange s) (ts : List Agent) (w : Waits) (n : Nat) :
    RegistersInRange (((s.setTurns ts).setWaits w).setDraws n) := { h with }

theorem PaletteCurrent.chosen (h : PaletteCurrent s) (ts : List Agent) (w : Waits) (n : Nat) :
    PaletteCurrent (((s.setTurns ts).setWaits w).setDraws n) := { h with }

/-- Choosing who moves changes nothing the invariant speaks of (log 1). -/
theorem StateInv.chosen (h : StateInv s) (ts : List Agent) (w : Waits) (n : Nat) :
    StateInv (((s.setTurns ts).setWaits w).setDraws n) where
  legal := h.legal
  registers := h.registers.chosen ts w n
  errors := { h.errors with }
  render := { h.render with }
  memories := { h.memories with }
  palette := h.palette.chosen ts w n

/-- Reset reaches the invariant from every state with a legal configuration (10_state.md R42). -/
theorem StateInv.applyReset (h : ConfigLegal s.cfg) : StateInv s.applyReset where
  legal := h
  registers := .applyReset s
  errors := .applyReset s
  render := .of_idle rfl
  memories := .applyReset s
  palette := .applyReset s

/-- The reference configuration meets the constraints of 00_scope.md R9, R10 and R11. -/
theorem reference_legal : ConfigLegal Config.reference where
  inSize := by decide
  outSize := by decide
  dirOpposite := rfl
  refDistinct := by decide
  stepDistinct := by decide
  matrixDistinct := by decide
  chromaZero := rfl
  chromaNonneg := by decide
  columnA := ⟨rfl, rfl, rfl⟩
  columnB := ⟨rfl, rfl, rfl⟩
  invertibleA := by decide +kernel
  invertibleB := by decide +kernel
  lumaWeight := by decide
  chromaWeight := by decide
  attenuation := by decide

end Sys2Proof.Machine
end

section
/-! The statements about the machine invariant. -/

namespace Sys2Proof.Machine

/-- Settles O44: reset requests the first build, and every other step keeps each clause: a request announces a build, a start takes
the inputs, a completion publishes their table. -/
theorem stepKeepsPaletteCurrent : Obligations.StepKeepsPaletteCurrent := by
  intro s t hr h hstep
  obtain ⟨-, rfl⟩ | ⟨ts, w, n, hs⟩ := step_cases s t hstep
  · exact .applyReset _
  · exact (h.chosen ts w n).stepResult (hr.chosen ts w n) hs

/-- Settles O54: reset reaches the invariant, and every other step keeps its six parts, of which the memories need that an accepted
render fits, and the palette and the render that the registers are in range. -/
theorem stepKeepsInvariant : Obligations.StepKeepsInvariant := by
  constructor
  · intro s t h hstep
    obtain ⟨-, rfl⟩ | ⟨ts, w, n, hs⟩ := step_cases s t hstep
    · exact .applyReset h.legal
    · exact (h.chosen ts w n).stepResult hs
  · intro s t hstep
    obtain ⟨-, rfl⟩ | ⟨ts, w, n, hs⟩ := step_cases s t hstep
    · rfl
    · exact hs.cfg

/-- Settles O55: the reset state is what the reset event makes of it, but for the count of resets, of which the invariant does not
speak. -/
theorem resetHasInvariant : Obligations.ResetHasInvariant :=
  have h : StateInv State.reset.applyReset := .applyReset reference_legal
  { h with
    registers := { h.registers with }
    errors := { h.errors with }
    render := { h.render with }
    memories := { h.memories with }
    palette := { h.palette with } }

end Sys2Proof.Machine
end

section
/-! SUPPORT. The host's accesses to the memories: the address map, writes, reads, and one repetition of POLL (20_memory.md sections 1
to 3, 30_encoding.md R106). -/

namespace Sys2Proof.Machine

/-! ### The address map reaches a memory (20_memory.md R61, R63, R66) -/

section
variable (cfg : Config) (addr : Addr) (n : Width) (off : Nat)

theorem mapped_inMem_iff : Mapped cfg addr n .inMem off ↔
    addr.toNat % n.bytes = 0 ∧ addr.toNat = 0x100000 + off ∧ off < 0x100000 ∧ off + n.bytes ≤ cfg.inMemBytes := Iff.rfl

theorem mapped_outMem_iff : Mapped cfg addr n .outMem off ↔
    addr.toNat % n.bytes = 0 ∧ addr.toNat = 0x400000 + off ∧ off < 0x400000 ∧ off + n.bytes ≤ cfg.outMemBytes := Iff.rfl

theorem windowTarget_eq_mem_iff (sp sp' : Space) (a off' n : Nat) :
    windowTarget cfg sp a off n = some (.mem sp' off') ↔ sp = sp' ∧ off = off' ∧ a % n = 0 ∧ off + n ≤ memBytes cfg sp := by
  unfold windowTarget
  split
  next h => simp [h]
  next h => simp [h]

/-- The address map sends an access to a memory exactly when it is mapped there. -/
theorem busTarget_eq_mem_iff (sp : Space) : busTarget cfg addr n = some (.mem sp off) ↔ Mapped cfg addr n sp off := by
  constructor
  · intro h
    by_cases hreg : addr.toNat < 0x100
    · rw [busTarget_regWindow cfg addr n hreg] at h
      split at h <;> cases h
    by_cases hin : 0x100000 ≤ addr.toNat ∧ addr.toNat < 0x200000
    · rw [busTarget_inWindow cfg addr n hin.1 hin.2, windowTarget_eq_mem_iff] at h
      obtain ⟨rfl, rfl, hal, hsize⟩ := h
      exact (mapped_inMem_iff ..).2 ⟨hal, by omega, by omega, hsize⟩
    by_cases hout : 0x400000 ≤ addr.toNat ∧ addr.toNat < 0x800000
    · rw [busTarget_outWindow cfg addr n hout.1 hout.2, windowTarget_eq_mem_iff] at h
      obtain ⟨rfl, rfl, hal, hsize⟩ := h
      exact (mapped_outMem_iff ..).2 ⟨hal, by omega, by omega, hsize⟩
    · rw [busTarget_outsideWindows cfg addr n hreg hin hout] at h
      cases h
  · intro h
    cases sp with
    | inMem =>
      obtain ⟨hal, haddr, hwin, hsize⟩ := (mapped_inMem_iff ..).1 h
      rw [busTarget_inWindow cfg addr n (by omega) (by omega), windowTarget_eq_mem_iff, memBytes]
      exact ⟨rfl, by omega, hal, by omega⟩
    | outMem =>
      obtain ⟨hal, haddr, hwin, hsize⟩ := (mapped_outMem_iff ..).1 h
      rw [busTarget_outWindow cfg addr n (by omega) (by omega), windowTarget_eq_mem_iff, memBytes]
      exact ⟨rfl, by omega, hal, by omega⟩

/-- A 4-byte access has no target exactly when it is neither at a register nor mapped to a memory. -/
theorem busTarget_word_eq_none_iff : busTarget cfg addr .word = none ↔
    ¬((addr.toNat < 0x100 ∧ addr.toNat % 4 = 0) ∨ ∃ (sp : Space) (off : Nat), Mapped cfg addr .word sp off) := by
  constructor
  · rintro h (⟨hreg, hal⟩ | ⟨sp, off, hmap⟩)
    · cases h.symm.trans (busTarget_register cfg addr hreg hal)
    · cases h.symm.trans ((busTarget_eq_mem_iff cfg addr .word off sp).2 hmap)
  · intro h
    cases ht : busTarget cfg addr .word with
    | none => rfl
    | some tgt =>
      refine absurd ?_ h
      cases tgt with
      | reg off =>
        obtain ⟨rfl, hreg, hal, -⟩ := busTarget_reg _ _ _ _ ht
        exact .inl ⟨hreg, hal⟩
      | mem sp off => exact .inr ⟨sp, off, (busTarget_eq_mem_iff cfg addr .word off sp).1 ht⟩

end

theorem Width.bytes_le (n : Width) : n.bytes ≤ 4 := by cases n <;> decide

/-! ### Writes (20_memory.md R65, R70) -/

section
variable (s : State)

theorem byteOf_toNat (v : Word) (k : Nat) : (byteOf v k).toNat = v.toNat / 2 ^ (8 * k) % 256 := BitVec.toNat_ofNat _ _

/-- When a write is a render hazard (20_memory.md R70). -/
theorem State.isHazard_iff (sp : Space) (off : Nat) : s.isHazard sp off = true ↔
    s.status.renderBusy = true ∧
      ((sp = .inMem ∧ off < s.snap.w.toNat * s.snap.h.toNat) ∨ (sp = .outMem ∧ off < s.regionLen)) := by
  cases sp with
  | inMem =>
    simp only [State.isHazard, Bool.and_eq_true, decide_eq_true_eq, true_and, reduceCtorEq, false_and, or_false]
    rfl
  | outMem => simp only [State.isHazard, Bool.and_eq_true, decide_eq_true_eq, true_and, reduceCtorEq, false_and, false_or]

/-- A hazard takes effect as any other write does. -/
theorem State.readByte_hostWrite (sp sp' : Space) (off x n : Nat) (v : Word) : (s.hostWrite sp off n v).readByte sp' x =
    if sp' = sp ∧ off ≤ x ∧ x < off + n then byteOf v (x - off) else s.readByte sp' x := by
  rw [← State.readByte_memWrite, State.hostWrite]
  split <;> rfl

/-- What a write of `n` bytes at `off` makes of the memories: its bytes stand there, the others as before. -/
theorem State.hostWrite_stores (sp : Space) (off n : Nat) (v : Word) :
    (∀ k < n, ((s.hostWrite sp off n v).readByte sp (off + k)).toNat = v.toNat / 2 ^ (8 * k) % 256) ∧
      SameMemoryOutside s (s.hostWrite sp off n v) sp off n := by
  refine ⟨fun k hk => ?_, fun sp' a hout => ?_⟩
  · rw [State.readByte_hostWrite, if_pos ⟨rfl, by omega, by omega⟩, Nat.add_sub_cancel_left, byteOf_toNat]
  · rw [State.readByte_hostWrite, if_neg hout]

/-- A write that is no hazard changes the memories alone. -/
theorem State.hostWrite_noHazard {sp : Space} {off n : Nat} {v : Word} (h : ¬s.isHazard sp off = true) :
    s.hostWrite sp off n v =
      { s with inMem := (s.hostWrite sp off n v).inMem, outMem := (s.hostWrite sp off n v).outMem } := by
  rw [State.hostWrite, if_neg h]
  exact s.memWrite_frame sp off v n

/-- Recording any code but GEOMETRY_MISMATCH leaves FATAL as it is (60_exceptions.md R222). -/
theorem Status.record_of_ne (st : Status) {c : ErrorCode} (h : c ≠ .geometryMismatch) : st.record c =
    { st with
      errFirst := if st.errBits = 0 then BitVec.ofNat 4 c.num else st.errFirst
      errBits := st.errBits ||| c.bit } := by
  rw [Status.record, decide_eq_false h, Bool.or_false]

/-- A hazard also sets R_TAINT and records code 7 (20_memory.md R70). -/
theorem State.hostWrite_hazard {sp : Space} {off n : Nat} {v : Word} (h : s.isHazard sp off = true) :
    s.hostWrite sp off n v =
      { s with
        inMem := (s.hostWrite sp off n v).inMem, outMem := (s.hostWrite sp off n v).outMem
        snap := { s.snap with taint := true }
        status := { s.status with
          errFirst := if s.status.errBits = 0 then 7 else s.status.errFirst
          errBits := s.status.errBits ||| 0x40 } } := by
  have hrecord := s.status.record_of_ne (c := .renderHazard) (by decide)
  rw [State.hostWrite, if_pos h]
  refine (congrArg (fun u => u.taintRender.recordError .renderHazard) (s.memWrite_frame sp off v n)).trans ?_
  rw [State.recordError]
  exact congrArg (State.setStatus _) hrecord

variable {addr : Addr} {n : Width} {sp : Space} {off : Nat}

/-- A host write to a mapped address is `hostWrite`, answered OK. -/
theorem State.access_writeMapped (h : Mapped s.cfg addr n sp off) (v : Word) :
    s.access (.write addr n v) = .next ((s.setResp .ok).hostWrite sp off n.bytes v) := by
  rw [State.access, (busTarget_eq_mem_iff ..).2 h]

/-! ### Reads (20_memory.md R65, R69) -/

theorem littleEndian_lt (bs : List Byte) : littleEndian bs < 2 ^ (8 * bs.length) := by
  induction bs with
  | nil => exact Nat.one_pos
  | cons b bs ih =>
    have hb := b.isLt
    rw [littleEndian, List.length_cons, Nat.mul_succ, pow_add]
    omega

/-- Byte `j` of a little-endian number. -/
theorem littleEndian_byte (bs : List Byte) (j : Nat) : littleEndian bs / 2 ^ (8 * j) % 256 = (bs.getD j 0).toNat := by
  induction bs generalizing j with
  | nil => simp [littleEndian]
  | cons b bs ih =>
    have hb := b.isLt
    cases j with
    | zero =>
      rw [littleEndian, List.getD_cons_zero]
      omega
    | succ j =>
      have hdiv : (b.toNat + 256 * littleEndian bs) / 256 = littleEndian bs := by omega
      have hpow : 2 ^ (8 * (j + 1)) = 256 * 2 ^ (8 * j) := by ring
      rw [littleEndian, hpow, ← Nat.div_div_eq_div_mul, hdiv, ih, List.getD_cons_succ]

/-- The data of a read of at most four bytes, byte by byte, and 0 above them (20_memory.md R65; log 11). -/
theorem State.busData_byte (sp : Space) (off : Nat) {n : Nat} (hn : n ≤ 4) (j : Nat) :
    (s.busData (.mem sp off) n).toNat / 2 ^ (8 * j) % 256 = if j < n then (s.hostByte sp off j).toNat else 0 := by
  have hlt := littleEndian_lt ((List.range n).map (s.hostByte sp off))
  rw [List.length_map, List.length_range] at hlt
  have hpow : 2 ^ (8 * n) ≤ 2 ^ 32 := Nat.pow_le_pow_right (by decide) (by omega)
  rw [State.busData, BitVec.toNat_ofNat, Nat.mod_eq_of_lt (hlt.trans_le hpow), littleEndian_byte,
    List.getD_eq_getElem?_getD, List.getElem?_map]
  split
  next hj => rw [List.getElem?_range hj]; rfl
  next hj => rw [List.getElem?_eq_none (by rw [List.length_range]; omega)]; rfl

/-- A byte outside the render region of a render in progress is the memory's (20_memory.md R69). -/
theorem State.hostByte_settled {k : Nat} (h : ¬(s.status.renderBusy = true ∧ sp = .outMem ∧ off + k < s.regionLen)) :
    s.hostByte sp off k = s.readByte sp (off + k) := by
  refine if_neg fun hu => h ?_
  simpa [State.unsettled, and_assoc] using hu

/-- A host read of a mapped address changes the response and the counter of free values (20_memory.md R67). -/
theorem State.access_readMapped (h : Mapped s.cfg addr n sp off) : s.access (.read addr n) =
    .next ((s.setDraws (s.drawsAfter (.mem sp off) n.bytes)).setResp (.data n (s.busData (.mem sp off) n.bytes))) := by
  rw [State.access, State.hostRead, (busTarget_eq_mem_iff ..).2 h]
  rfl

/-! ### POLL (30_encoding.md R106; log 12) -/

/-- The host's turn with a poll next is one repetition of it. -/
theorem step_of_poll (addr : Addr) (m e : Word) (ps : List HostOp) (ts : List Agent) (ht : s.turns = .host :: ts)
    (hp : s.prog = .poll addr m e :: ps) : step s = (s.setTurns ts).pollOnce addr m e ps := by
  rw [step_of_turn s .host ts ht, State.agentStep, State.hostStep, State.setTurns_prog, hp]

/-- A repetition with a target reads it, and takes the line off when the masked value is as expected. -/
theorem State.pollOnce_of_target {tgt : Target} (h : busTarget s.cfg addr .word = some tgt) (m e : Word) (ps : List HostOp) :
    s.pollOnce addr m e ps = .next (((s.setDraws (s.drawsAfter tgt 4)).setResp (.data .word (s.busData tgt 4))).setProg
      (if s.busData tgt 4 &&& m = e then ps else s.prog)) := by
  rw [State.pollOnce, State.hostRead, h]
  simp only [Option.map_some, Width.bytes]
  split <;> rfl

/-- A repetition faults exactly without a target (log 2). -/
theorem State.pollOnce_fault_iff (m e : Word) (ps : List HostOp) :
    s.pollOnce addr m e ps = .fault .busError ↔ busTarget s.cfg addr .word = none := by
  cases ht : busTarget s.cfg addr .word with
  | some tgt => rw [s.pollOnce_of_target ht]; simp
  | none => rw [State.pollOnce, ht]; simp

end

end Sys2Proof.Machine
end

section
/-! The statements about host writes, host reads and POLL. -/

namespace Sys2Proof.Machine

/-- Settles O32: the address map by its windows, and a host write by what it stores and what it leaves. -/
theorem memoryWriteStoresLittleEndian : Obligations.MemoryWriteStoresLittleEndian := by
  refine ⟨fun cfg addr n sp off => busTarget_eq_mem_iff cfg addr n off sp, fun s addr n v sp off hmap => ?write⟩
  case write =>
    obtain ⟨hstored, hkept⟩ := (s.setResp .ok).hostWrite_stores sp off n.bytes v
    exact ⟨_, s.access_writeMapped hmap v, hstored, hkept, fun hno =>
      (s.setResp .ok).hostWrite_noHazard (mt ((s.setResp .ok).isHazard_iff sp off).1 hno)⟩

/-- Settles O33: a hazard stores its bytes as any write does, and beyond that changes R_TAINT and the error state. -/
theorem hazardWriteTaintsAndRecords : Obligations.HazardWriteTaintsAndRecords := by
  intro s addr n v sp off hmap hbusy hmeets
  obtain ⟨hstored, hkept⟩ := (s.setResp .ok).hostWrite_stores sp off n.bytes v
  exact ⟨_, s.access_writeMapped hmap v, hstored, hkept,
    (s.setResp .ok).hostWrite_hazard (((s.setResp .ok).isHazard_iff sp off).2 ⟨hbusy, hmeets⟩)⟩

/-- Settles O34: the data is the little-endian number of the bytes read, each the memory's unless it is unsettled. -/
theorem readsReturnBytesAndChangeNothing : Obligations.ReadsReturnBytesAndChangeNothing := by
  intro s addr n sp off hmap
  have hbyte := s.busData_byte sp off n.bytes_le
  refine ⟨_, _, s.access_readMapped hmap, fun j hj hsettled => ?inside, fun j _ hj => ?above⟩
  case inside => rw [hbyte, if_pos hj, s.hostByte_settled hsettled]
  case above => rw [hbyte, if_neg (Nat.not_lt.2 hj)]

/-- Settles O35: one repetition by its target, a register or a mapped memory address; without one it faults. -/
theorem pollRepeatsUntilMatched : Obligations.PollRepeatsUntilMatched := by
  intro s addr m e ps ts ht hp
  have hstep := step_of_poll s addr m e ps ts ht hp
  refine ⟨fun hreg hal => ?register, fun sp off hmap => ?memory, ?fault⟩
  case register =>
    rw [hstep, (s.setTurns ts).pollOnce_of_target (busTarget_register s.cfg addr hreg hal)]
    rfl
  case memory =>
    refine ⟨_, _, s.access_readMapped hmap, ?_⟩
    rw [hstep, (s.setTurns ts).pollOnce_of_target ((busTarget_eq_mem_iff ..).2 hmap)]
    rfl
  case fault =>
    rw [hstep, State.pollOnce_fault_iff]
    exact busTarget_word_eq_none_iff s.cfg addr

end Sys2Proof.Machine
end

section
/-! SUPPORT. The engines and the error state over a step: what the perform step writes and draws, which fields each engine touches,
and what no step but reset changes (41_palette.md section 3, 42_render.md section 3, 60_exceptions.md sections 2 and 4). -/

namespace Sys2Proof.Machine

section
variable (s : State)

/-! ### The perform step (42_render.md R201) -/

/-- A tainted perform draws one free value per byte of the region, an untainted one none (log 8). -/
theorem State.performRender_draws :
    s.performRender.draws = if s.snap.taint = true then s.draws + s.regionLen else s.draws := by
  unfold State.performRender
  split <;> rfl

/-- An untainted perform leaves byte `k` of the render at offset `k`. -/
theorem State.performRender_rendered {s : State} (h : s.snap.taint = false) {k : Nat} (hk : k < s.regionLen) :
    s.renderOutput[k]? = some (s.performRender.readByte .outMem k) := by
  have hlen := s.performed_length
  rw [State.performed, h, if_neg Bool.false_ne_true] at hlen
  rw [State.performRender_untainted h hk, List.getElem?_eq_getElem (hlen.symm ▸ hk), Option.getD_some]

/-- A tainted perform leaves drawn bytes in the render region. -/
theorem State.performRender_tainted {s : State} (h : s.snap.taint = true) {k : Nat} (hk : k < s.regionLen) :
    s.performRender.readByte .outMem k = Config.drawnByte (s.draws + k) := by
  rw [State.readByte_performRender, if_pos ⟨rfl, hk⟩, State.performed, if_pos h, drawnBytes, List.getElem?_map,
    List.getElem?_range hk]
  rfl

/-- Outside the render region the perform step leaves every byte of both memories. -/
theorem State.performRender_outside : SameMemoryOutside s s.performRender .outMem 0 s.regionLen := by
  intro sp a hout
  rw [State.readByte_performRender, if_neg fun h => hout ⟨h.1, Nat.zero_le a, by omega⟩]

/-- The render engine moves only while a render is in progress (42_render.md R201). -/
theorem Status.renderEnabled_of_idle {st : Status} (h : st.renderBusy = false ∨ st.palValid = false) :
    st.renderEnabled = false := by
  rw [Status.renderEnabled, Bool.and_eq_false_iff]
  exact h

/-! ### What the engines leave -/

theorem State.setBank_self (k : Bank) : s.setBank k (s.bank k) = s := by cases k <;> rfl

/-- The build engine leaves the bank that is active (10_state.md R36). -/
theorem State.buildStep_activeBank : s.buildStep.bank s.status.activeBank = s.bank s.status.activeBank := by
  obtain ⟨-, e⟩ | ⟨-, -, e⟩ | ⟨-, -, e⟩ := s.buildStep_cases <;> rw [e]
  · exact s.completeBuild_old
  · rfl

theorem State.renderStep_bank (k : Bank) : s.renderStep.bank k = s.bank k := by
  obtain ⟨m, busy, done, n, e⟩ := s.renderStep_frame
  rw [e]
  rfl

/-- The build engine changes no byte of memory. -/
theorem State.buildStep_sameMemory : SameMemory s s.buildStep := by
  intro sp a
  obtain ⟨-, e⟩ | ⟨-, -, e⟩ | ⟨-, -, e⟩ := s.buildStep_cases <;> rw [e]
  · rw [State.completeBuild, State.setStatus_readByte, State.setBank_readByte]
  · rfl

theorem State.buildStep_fatal : s.buildStep.status.fatal = s.status.fatal := by
  obtain ⟨b, p, p', busy, pending, valid, k, e⟩ := s.buildStep_frame
  rw [e]

theorem State.renderStep_fatal : s.renderStep.status.fatal = s.status.fatal := by
  obtain ⟨m, busy, done, n, e⟩ := s.renderStep_frame
  rw [e]

end

/-! ### What the host leaves -/

/-- No host step writes a palette bank (10_state.md R36). -/
theorem keptByHost_bank (k : Bank) (p : Palette) : KeptByHost fun u => u.bank k = p where
  answer _ _ _ h := h
  writeStatus _ h := h
  writePalIndex _ h := h
  memWrite sp off v n _ h := by rw [State.memWrite_frame]; exact h
  taint h := h
  command h hc := by cases hc <;> exact h

/-- No host step clears FATAL (60_exceptions.md R226). -/
theorem keptByHost_fatal : KeptByHost fun u => u.status.fatal = true where
  answer _ _ _ h := h
  writeStatus _ h := h
  writePalIndex _ h := h
  memWrite sp off v n _ h := by rw [State.memWrite_frame]; exact h
  taint h := h
  command h hc := by
    cases hc with
    | error c => rw [State.recordError_status, Status.record_fatal, h, Bool.true_or]
    | nothing | ctrl | std | phase | sat | geom | frameLen | request | accept => exact h

/-- With no render in progress and no write next, a step that is not reset's leaves every byte of memory (20_memory.md R72). -/
theorem StepResult.sameMemory {s t : State} (hs : StepResult s t) (hidle : s.status.renderBusy = false)
    (hwrite : ∀ (addr : Addr) (n : Width) (v : Word) (ps : List HostOp), s.prog ≠ .access (.write addr n v) :: ps) :
    SameMemory s t := by
  cases hs with
  | idle => exact fun _ _ => rfl
  | build => exact s.buildStep_sameMemory
  | render =>
    rw [State.renderStep, if_neg (Bool.eq_false_iff.1 (Status.renderEnabled_of_idle (.inl hidle)))]
    exact fun _ _ => rfl
  | read => exact fun _ _ => rfl
  | writeReg ps addr n v off hp _ => exact absurd hp (hwrite addr n v ps)
  | writeMem ps addr n v sp off hp _ => exact absurd hp (hwrite addr n v ps)
  | illegal ps v e hp _ => exact absurd hp (hwrite 0 .word v ps)
  | command ps v i t hp _ _ => exact absurd hp (hwrite 0 .word v ps)

/-- A step is reset's, or leads on from the state that choosing the agent leaves. -/
theorem stepResult_of_not_reset {s t : State} (hstep : step s = .next t) (hno : s.turns.head? ≠ some .rst) :
    ∃ ts w n, StepResult (((s.setTurns ts).setWaits w).setDraws n) t := (step_cases s t hstep).resolve_left fun h => hno h.1

end Sys2Proof.Machine
end

section
/-! The statements about what the engines write and what no step but reset changes. -/

namespace Sys2Proof.Machine

/-- Settles O45: the engine's turn is `performRender` while a render is in progress and a palette is valid, and nothing
otherwise. -/
theorem performWritesTheRenderRegion : Obligations.PerformWritesTheRenderRegion := by
  intro s ts ht
  have hstep : step s = .next (s.setTurns ts).renderStep := step_of_turn s .renderEngine ts ht
  refine ⟨fun hbusy hvalid => ?performs, fun hidle => ?idles⟩
  case performs =>
    have hperform : (s.setTurns ts).renderStep = (s.setTurns ts).performRender := if_pos (Bool.and_eq_true_iff.2 ⟨hbusy, hvalid⟩)
    have hdraws := (s.setTurns ts).performRender_draws
    refine ⟨_, hperform ▸ hstep, fun hclean => ⟨?_, fun k hk => ?_⟩, fun htaint => ⟨?_, fun k hk => ?_⟩,
      (s.setTurns ts).performRender_outside, (s.setTurns ts).performRender_eq⟩
    · exact hdraws.trans (if_neg (hclean ▸ Bool.false_ne_true))
    · exact State.performRender_rendered (s := s.setTurns ts) hclean hk
    · exact hdraws.trans (if_pos htaint)
    · exact State.performRender_tainted (s := s.setTurns ts) htaint hk
  case idles =>
    have hskip : (s.setTurns ts).renderStep = s.setTurns ts :=
      if_neg (Bool.eq_false_iff.1 (Status.renderEnabled_of_idle hidle))
    exact hstep.trans (congrArg Host.Outcome.next hskip)

/-- Settles O53: each step of either engine, case by case, is an update of the fields listed. -/
theorem enginesWriteOnlyTheirOwnState : Obligations.EnginesWriteOnlyTheirOwnState := by
  constructor
  · intro s
    have hself := s.setBank_self s.status.activeBank.other
    obtain ⟨-, e⟩ | ⟨-, -, e⟩ | ⟨-, -, e⟩ := s.buildStep_cases <;> rw [e]
    · exact ⟨(s.setBank s.status.activeBank.other s.builtTable).build, s.builtTable, false, s.status.buildPending, true,
        s.status.activeBank.other, rfl⟩
    · refine ⟨s.startBuild.build, s.bank s.status.activeBank.other, true, false, s.status.palValid, s.status.activeBank, ?_⟩
      rw [hself]
      rfl
    · refine ⟨s.build, s.bank s.status.activeBank.other, s.status.buildBusy, s.status.buildPending, s.status.palValid,
        s.status.activeBank, ?_⟩
      rw [hself]
  · exact State.renderStep_frame

/-- Settles O43: the host writes no bank, the render engine neither, and the build engine the other one. -/
theorem activeBankIsNeverMutated : Obligations.ActiveBankIsNeverMutated := by
  intro s t hstep hno
  obtain ⟨ts, w, n, hs⟩ := stepResult_of_not_reset hstep hno
  exact (keptByHost_bank s.status.activeBank _).stepResult hs rfl (State.buildStep_activeBank _) (State.renderStep_bank _ _)

/-- Settles O52: the build engine writes no memory, a render engine with no render in progress does nothing, and every other host
step but a write leaves the memories. -/
theorem finishedFrameStaysPut : Obligations.FinishedFrameStaysPut := by
  intro s t hstep hidle hno hwrite
  obtain ⟨ts, w, n, hs⟩ := stepResult_of_not_reset hstep hno
  exact fun sp a => hs.sameMemory hidle hwrite sp a

/-- Settles O56: FATAL is set by recording and cleared by nothing but reset; RENDER's first check is FATAL, and recording code 8
leaves it. -/
theorem fatalIsLeftOnlyByReset : Obligations.FatalIsLeftOnlyByReset := by
  constructor
  · intro s t hstep hfatal hno
    obtain ⟨ts, w, n, hs⟩ := stepResult_of_not_reset hstep hno
    exact keptByHost_fatal.stepResult hs hfatal ((State.buildStep_fatal _).trans hfatal) ((State.renderStep_fatal _).trans hfatal)
  · intro s hfatal
    rw [exec_render_raise (s.renderCheck_fatal hfatal), State.recordError, Status.record_of_ne _ (by decide)]
    rfl

end Sys2Proof.Machine
end

section
/-! SUPPORT. Entries of the palette at angles a whole number of turns apart (41_palette.md R158). -/

namespace Sys2Proof.Machine

/-- Entries of one luma level whose angles are whole turns apart are equal: a channel sees the angle through cosine and sine. -/
theorem buildEntry_turns_congr (cfg : Config) (s : Std) {p p' : BitVec 16} (q : BitVec 16) {i i' : Nat} {k : Nat}
    (hluma : lumaLevel i = lumaLevel i') (hangle : chromaAngle cfg s p i = chromaAngle cfg s p' i' + 360 * k) :
    buildEntry cfg s p q i = buildEntry cfg s p' q i' := by
  have hreal : (chromaAngle cfg s p i : ℝ) * Real.pi / 180 = (chromaAngle cfg s p' i' : ℝ) * Real.pi / 180 + k * (2 * Real.pi) := by
    rw [hangle]
    push_cast
    ring
  have hcos := hreal ▸ Real.cos_add_nat_mul_two_pi ((chromaAngle cfg s p' i' : ℝ) * Real.pi / 180) k
  have hsin := hreal ▸ Real.sin_add_nat_mul_two_pi ((chromaAngle cfg s p' i' : ℝ) * Real.pi / 180) k
  have hchannel (row : Vec3) (y c : Rat) := channel_congr row y c _ _ hcos hsin
  simp only [buildEntry, hchannel, lumaValue, chromaMagnitude, hluma]

/-- The reference configuration has its sixteen StdA hues 22.5 degrees apart, from 135 degrees on (00_scope.md R10). -/
theorem chromaAngle_reference_stdA (p : BitVec 16) (i : Nat) :
    chromaAngle Config.reference .stdA p i = 135 + 45 / 2 * hueLevel i + p.toNat / 100 := by
  have hstep : (Config.reference.params .stdA).step = 45 / 2 := by decide +kernel
  rw [chromaAngle, baseAngle, hstep]
  simp only [Config.params, Config.reference, Winding.sign, one_mul]

end Sys2Proof.Machine
end

section
/-! The statement about the rotation of the hues. -/

namespace Sys2Proof.Machine

/-- Settles O39: a phase of `22.5 · k` degrees is `k` hue steps, and sixteen hue steps are a turn. -/
theorem phaseRotatesTheHues : Obligations.PhaseRotatesTheHues := by
  intro q k h l hk hh hl
  have hphase : (BitVec.ofNat 16 (2250 * k)).toNat = 2250 * k := by
    rw [BitVec.toNat_ofNat, Nat.mod_eq_of_lt (by omega)]
  have hhue (a : Nat) : hueLevel (16 * a + l) = a := by rw [hueLevel]; omega
  have hluma (a : Nat) : lumaLevel (16 * a + l) = l := by rw [lumaLevel]; omega
  have hturn : ((h + k : Nat) : Rat) = ((h + k) % 16 : Nat) + 16 * ((h + k) / 16 : Nat) := by
    exact_mod_cast (Nat.mod_add_div (h + k) 16).symm
  rw [buildTable_getElem, buildTable_getElem]
  refine buildEntry_turns_congr _ _ q (k := (h + k) / 16) ((hluma h).trans (hluma _).symm) ?_
  rw [chromaAngle_reference_stdA, chromaAngle_reference_stdA, hphase, hhue, hhue, BitVec.ofNat_eq_ofNat, BitVec.toNat_ofNat]
  push_cast at hturn ⊢
  linarith

end Sys2Proof.Machine
end

section
/-! SUPPORT. Scheduling: what choosing the agent makes of a step, the work left to the engines, and weak fairness over infinite runs
(41_palette.md R163, 70_reset_and_hazards.md R266; logs 1, 14). -/

namespace Sys2Proof.Machine

/-! ### A step by the agent that moves -/

section
variable {s t : State}

/-- Choosing the agent changes the schedule, the waits and the counter of free values at most. -/
theorem State.pick_state (s : State) : ∃ (w : Waits) (n : Nat), s.pick.2 = ((s.setTurns s.turns.tail).setWaits w).setDraws n := by
  cases ht : s.turns with
  | cons a ts => exact ⟨s.waits, s.draws, by rw [State.pick_cons s a ts ht]; rfl⟩
  | nil =>
    have hself : s.setTurns [] = s := by rw [← ht]; rfl
    obtain ⟨-, hp⟩ | ⟨a, n, -, hp⟩ := s.pick_nil ht <;> rw [hp, List.tail_nil, hself]
    · exact ⟨s.waits, s.draws, rfl⟩
    · exact ⟨_, n, rfl⟩

theorem State.pick_status (s : State) : s.pick.2.status = s.status := by
  obtain ⟨w, n, e⟩ := s.pick_state
  rw [e]; rfl

theorem State.pick_prog (s : State) : s.pick.2.prog = s.prog := by
  obtain ⟨w, n, e⟩ := s.pick_state
  rw [e]; rfl

/-- The agent chosen takes the step. -/
theorem step_of_pick {a : Agent} (h : s.pick.1 = some a) : step s = s.pick.2.agentStep a := by
  unfold step State.stepOnce
  split
  next a' s' hp => rw [hp] at h ⊢; cases h; rfl
  next s' hp => rw [hp] at h; cases h

/-- With nobody chosen the step is choosing alone. -/
theorem step_of_pick_none (h : s.pick.1 = none) : step s = .next s.pick.2 := by
  unfold step State.stepOnce
  split
  next a' s' hp => rw [hp] at h; cases h
  next s' hp => rw [hp]

end

/-! ### The work left to the engines -/

/-- How many steps the build engine has left to take: two for a requested build, one for a running one (41_palette.md R160,
R161). -/
def Status.buildWork (st : Status) : Nat := 2 * st.buildPending.toNat + st.buildBusy.toNat

/-- The same for both engines: one more for a render in progress (42_render.md R201). -/
def Status.engineWork (st : Status) : Nat := st.buildWork + st.renderBusy.toNat

section
variable {s t : State}

theorem Status.buildWork_eq_zero_iff (st : Status) : st.buildWork = 0 ↔ st.buildEnabled = false := by
  rw [Status.buildWork, Status.buildEnabled]
  cases st.buildBusy <;> cases st.buildPending <;> decide

theorem Status.engineWork_le (st : Status) : st.engineWork ≤ 4 := by
  have hp := st.buildPending.toNat_le
  have hb := st.buildBusy.toNat_le
  have hr := st.renderBusy.toNat_le
  rw [Status.engineWork, Status.buildWork]
  omega

/-- A step of the build engine that is enabled leaves it less to do: a start turns a request into a running build, a completion
ends one. -/
theorem State.buildStep_buildWork_lt (h : s.status.buildEnabled = true) : s.buildStep.status.buildWork < s.status.buildWork := by
  obtain ⟨hbusy, e⟩ | ⟨hidle, hpending, e⟩ | ⟨hidle, hnone, -⟩ := s.buildStep_cases
  · rw [e, State.completeBuild_status, Status.buildWork, Status.buildWork, hbusy]
    exact Nat.lt_succ_self _
  · rw [e, State.startBuild_status, Status.buildWork, Status.buildWork, hidle, hpending]
    exact Nat.one_lt_two
  · rw [Status.buildEnabled, hidle, hnone] at h
    cases h

theorem State.buildStep_buildWork_le (s : State) : s.buildStep.status.buildWork ≤ s.status.buildWork := by
  cases h : s.status.buildEnabled with
  | true => exact (State.buildStep_buildWork_lt h).le
  | false =>
    obtain ⟨hidle, hnone⟩ := Bool.or_eq_false_iff.1 h
    rw [State.buildStep, hidle, hnone]
    exact le_rfl

theorem State.buildStep_renderBusy (s : State) : s.buildStep.status.renderBusy = s.status.renderBusy := by
  obtain ⟨b, p, p', busy, pending, valid, k, e⟩ := s.buildStep_frame
  rw [e]

/-- The render engine leaves the build engine's work. -/
theorem State.renderStep_buildWork (s : State) : s.renderStep.status.buildWork = s.status.buildWork := by
  obtain ⟨m, busy, done, n, e⟩ := s.renderStep_frame
  rw [e]
  rfl

/-- A perform step ends the render in progress. -/
theorem State.renderStep_renderBusy (h : s.status.renderEnabled = true) : s.renderStep.status.renderBusy = false := by
  rw [State.renderStep, if_pos h, s.performRender_eq]

theorem CommandResult.buildBusy (h : CommandResult s t) : t.status.buildBusy = s.status.buildBusy := by cases h <;> rfl

/-- Only a palette-input command gives the build engine more to do (41_palette.md R162). -/
theorem StepResult.buildWork_le (hs : StepResult s t)
    (hno : ∀ v ps i, s.prog = .access (.write 0 .word v) :: ps → decode v = .ok i → isPaletteInput i = false) :
    t.status.buildWork ≤ s.status.buildWork := by
  cases hs with
  | idle => exact le_rfl
  | build => exact s.buildStep_buildWork_le
  | render => exact s.renderStep_buildWork.le
  | read => exact le_rfl
  | writeReg ps addr n v off _ _ =>
    obtain e | e | e := ((s.setProg ps).setResp .ok).writeReg_cases off v <;> rw [e] <;> exact le_rfl
  | writeMem ps addr n v sp off _ _ =>
    obtain ⟨m, m', e | e⟩ := ((s.setProg ps).setResp .ok).hostWrite_frame sp off n.bytes v <;> rw [e] <;> exact le_rfl
  | illegal => exact le_rfl
  | command ps v i t hp hd he =>
    have hpending := exec_buildPending he
    rw [hno v ps i hp hd, Bool.or_false] at hpending
    rw [Status.buildWork, hpending, (exec_cases i _ t (decode_wellFormed v i hd) he).buildBusy]
    exact le_rfl

/-- A step that requests no build gives the build engine no more to do. -/
theorem step_buildWork_le (hstep : step s = .next t) (hno : ¬RequestsBuild s) : t.status.buildWork ≤ s.status.buildWork := by
  obtain ⟨hrst, hcmd⟩ := not_or.1 hno
  rw [← s.pick_status]
  cases hp : s.pick.1 with
  | none =>
    rw [step_of_pick_none hp] at hstep
    cases hstep
    exact le_rfl
  | some a =>
    rw [step_of_pick hp] at hstep
    cases a with
    | rst => exact absurd hp hrst
    | buildEngine => cases hstep; exact State.buildStep_buildWork_le _
    | renderEngine => cases hstep; exact (State.renderStep_buildWork _).le
    | host =>
      refine (State.hostStep_cases _ t hstep).buildWork_le fun v ps i hprog hd => ?_
      rw [s.pick_prog] at hprog
      exact Bool.eq_false_iff.2 fun hi => hcmd ⟨hp, v, ps, i, hprog, hd, hi⟩

/-- The build engine's own step, with one enabled, leaves it less to do. -/
theorem step_buildWork_lt (hstep : step s = .next t) (hp : s.pick.1 = some .buildEngine)
    (hen : s.status.buildEnabled = true) : t.status.buildWork < s.status.buildWork := by
  rw [step_of_pick hp] at hstep
  cases hstep
  rw [← s.pick_status] at hen ⊢
  exact State.buildStep_buildWork_lt hen

end

/-! ### With the host idle and the schedule used up -/

section
variable {s : State}

theorem State.buildStep_prog (s : State) : s.buildStep.prog = s.prog := by
  obtain ⟨b, p, p', busy, pending, valid, k, e⟩ := s.buildStep_frame
  rw [e]

theorem State.renderStep_prog (s : State) : s.renderStep.prog = s.prog := by
  obtain ⟨m, busy, done, n, e⟩ := s.renderStep_frame
  rw [e]

/-- Neither engine has a step enabled (60_exceptions.md R234). -/
def Status.atRest (st : Status) : Prop := st.buildEnabled = false ∧ st.renderEnabled = false

/-- An enabled engine's step leaves the two engines less to do. -/
theorem State.engineStep_work_lt {a : Agent} {t : State} (ht : s.agentStep a = .next t)
    (ha : (a = .buildEngine ∧ s.status.buildEnabled = true) ∨ (a = .renderEngine ∧ s.status.renderEnabled = true)) :
    t.status.engineWork < s.status.engineWork ∧ t.prog = s.prog := by
  obtain ⟨rfl, hen⟩ | ⟨rfl, hen⟩ := ha
  · cases ht
    rw [Status.engineWork, Status.engineWork, s.buildStep_renderBusy]
    exact ⟨Nat.add_lt_add_right (State.buildStep_buildWork_lt hen) _, s.buildStep_prog⟩
  · cases ht
    obtain ⟨hbusy, -⟩ := Bool.and_eq_true_iff.1 hen
    rw [Status.engineWork, Status.engineWork, s.renderStep_buildWork, State.renderStep_renderBusy hen, hbusy]
    exact ⟨Nat.lt_succ_self _, s.renderStep_prog⟩

/-- With the host idle and the schedule used up a step is an engine's and leaves less to do, or the engines are at rest and it
changes nothing. -/
theorem step_of_idle_host (hprog : s.prog = []) (hturns : s.turns = []) :
    (s.status.atRest ∧ step s = .next s) ∨
      ∃ t, step s = .next t ∧ t.prog = [] ∧ t.turns = [] ∧ t.status.engineWork < s.status.engineWork := by
  obtain ⟨hnone, hp⟩ | ⟨a, n, ha, hp⟩ := s.pick_nil hturns
  · left
    have hnot (a : Agent) : a ∉ s.enabledAgents := by rw [hnone]; exact List.not_mem_nil
    refine ⟨⟨Bool.eq_false_iff.2 fun h => ?_, Bool.eq_false_iff.2 fun h => ?_⟩, ?_⟩
    · exact hnot .buildEngine ((s.mem_enabledAgents _).2 (.inr (.inl ⟨rfl, h⟩)))
    · exact hnot .renderEngine ((s.mem_enabledAgents _).2 (.inr (.inr ⟨rfl, h⟩)))
    · rw [step_of_pick_none (by rw [hp]), hp]
  · right
    have hengine := ((s.mem_enabledAgents a).1 ha).resolve_left fun h => h.2 hprog
    have hstep : step s = ((s.setWaits (s.waitsAfter a)).setDraws n).agentStep a := by rw [step_of_pick (by rw [hp]), hp]
    obtain ⟨t, ht⟩ : ∃ t, ((s.setWaits (s.waitsAfter a)).setDraws n).agentStep a = .next t := by
      obtain ⟨rfl, -⟩ | ⟨rfl, -⟩ := hengine <;> exact ⟨_, rfl⟩
    obtain ⟨hless, hkept⟩ := State.engineStep_work_lt ht hengine
    obtain ⟨htail, -⟩ := step_schedule s t (hstep.trans ht)
    exact ⟨t, hstep.trans ht, hkept.trans hprog, by rw [htail, hturns, List.tail_nil], hless⟩

/-- A run takes its first step and goes on from there. -/
theorem run_succ_of_step {t : State} (h : step s = .next t) (k : Nat) :
    Host.Core.run core (k + 1) s = Host.Core.run core k t := by
  have hcore : core.step s = .next t := h
  simp only [Host.Core.run, hcore]

/-- A run from a state a step does not change stays there. -/
theorem run_of_fixed (h : step s = .next s) (k : Nat) : Host.Core.run core k s = .next s := by
  induction k with
  | zero => rfl
  | succ k ih => rw [run_succ_of_step h, ih]

/-- With the host idle and the schedule used up, as many steps as there is work bring the engines to rest. -/
theorem run_to_rest (k : Nat) (s : State) (hprog : s.prog = []) (hturns : s.turns = []) (hwork : s.status.engineWork ≤ k) :
    ∃ t, Host.Core.run core k s = .next t ∧ t.status.atRest := by
  induction k generalizing s with
  | zero =>
    obtain ⟨hrest, -⟩ | ⟨t, -, -, -, hless⟩ := step_of_idle_host hprog hturns
    · exact ⟨s, rfl, hrest⟩
    · omega
  | succ k ih =>
    obtain ⟨hrest, hstep⟩ | ⟨t, hstep, hprog', hturns', hless⟩ := step_of_idle_host hprog hturns
    · exact ⟨s, run_of_fixed hstep _, hrest⟩
    · rw [run_succ_of_step hstep]
      exact ih t hprog' hturns' (by omega)

end

/-! ### Infinite runs -/

section
variable {r : Nat → State} (hr : IsRun r)
include hr

/-- A schedule is used up after as many steps as it is long. -/
theorem IsRun.eventually_noTurns (n : Nat) : ∃ N ≥ n, ∀ m ≥ N, (r m).turns = [] := by
  have hdrop (k : Nat) : (r (n + k)).turns = (r n).turns.drop k := by
    induction k with
    | zero => rfl
    | succ k ih => rw [← Nat.add_assoc, (step_schedule _ _ (hr (n + k))).1, ih, List.tail_drop]
  refine ⟨n + (r n).turns.length, Nat.le_add_right .., fun m hm => ?_⟩
  obtain ⟨k, rfl⟩ := Nat.exists_eq_add_of_le hm
  rw [Nat.add_assoc, hdrop, List.drop_eq_nil_of_le (Nat.le_add_right ..)]

/-- With the schedule used up and an agent enabled, some agent moves and the waits follow it (log 14). -/
theorem IsRun.waits_succ {m : Nat} (hturns : (r m).turns = []) {a : Agent} (ha : a ∈ (r m).enabledAgents) :
    ∃ b, (r m).pick.1 = some b ∧ (r (m + 1)).waits = (r m).waitsAfter b := by
  obtain ⟨-, ⟨hne, -⟩ | ⟨-, hnone, -⟩ | ⟨-, b, -, hp, hw⟩⟩ := step_schedule _ _ (hr m)
  · exact absurd hturns hne
  · rw [hnone] at ha
    cases ha
  · exact ⟨b, hp, hw⟩

end

/-- A wait that grows by one at every step gets past any patience of its round. -/
theorem exists_patience_passed {w : Nat → Wait} (p : Nat → Nat) {N : Nat}
    (hgrow : ∀ m ≥ N, w (m + 1) = { passed := (w m).passed + 1, round := (w m).round }) :
    ∃ M ≥ N, ∀ m ≥ M, p (w m).round ≤ (w m).passed := by
  have hwait (k : Nat) : w (N + k) = { passed := (w N).passed + k, round := (w N).round } := by
    induction k with
    | zero => rfl
    | succ k ih => rw [← Nat.add_assoc, hgrow _ (Nat.le_add_right N k), ih]; rfl
  refine ⟨N + p (w N).round, Nat.le_add_right .., fun m hm => ?_⟩
  obtain ⟨k, rfl⟩ := Nat.exists_eq_add_of_le hm
  rw [Nat.add_assoc, hwait]
  exact (Nat.le_add_right _ k).trans (Nat.le_add_left _ _)

section
variable {r : Nat → State} (hr : IsRun r)
include hr

/-- An engine that is enabled and passed over for ever has its wait outgrow its patience (log 14). `w` is the engine's wait, `en` its
condition and `p` its patience. -/
theorem IsRun.eventually_overdue {a : Agent} {w : Waits → Wait} {en : Status → Bool} (p : Nat → Nat)
    (hafter : ∀ (s : State) (b : Agent), w (s.waitsAfter b) = (w s.waits).afterTurn (en s.status) (decide (b = a)))
    (hmem : ∀ s : State, en s.status = true → a ∈ s.enabledAgents) {n : Nat}
    (hen : ∀ m ≥ n, en (r m).status = true) (hnever : ∀ m ≥ n, (r m).pick.1 ≠ some a) :
    ∃ M ≥ n, ∀ m ≥ M, (r m).turns = [] ∧ p (w (r m).waits).round ≤ (w (r m).waits).passed := by
  obtain ⟨N, hN, hturns⟩ := hr.eventually_noTurns n
  obtain ⟨M, hM, hover⟩ := exists_patience_passed (w := fun m => w (r m).waits) p (N := N) fun m hm => by
    have hen := hen m (hN.trans hm)
    obtain ⟨b, hp, hw⟩ := hr.waits_succ (hturns m hm) (hmem (r m) hen)
    have hb : b ≠ a := fun hb => hnever m (hN.trans hm) (hb ▸ hp)
    simp only [hw, hafter, hen, decide_eq_false hb, Wait.afterTurn_passed]
  exact ⟨M, hN.trans hM, fun m hm => ⟨hturns m (hM.trans hm), hover m hm⟩⟩

/-- Weak fairness for the build engine (41_palette.md R163): enabled and passed over for ever it would become overdue, and an
overdue build engine is the one that moves. -/
theorem IsRun.buildEngine_fair (n : Nat) : ∃ m ≥ n, (r m).status.buildEnabled = false ∨ (r m).pick.1 = some .buildEngine := by
  by_contra! hnever
  have hen (m : Nat) (hm : m ≥ n) : (r m).status.buildEnabled = true := Bool.of_not_eq_false (hnever m hm).1
  have hpassed (m : Nat) (hm : m ≥ n) := (hnever m hm).2
  obtain ⟨M, hM, hover⟩ := hr.eventually_overdue (w := Waits.build) (en := Status.buildEnabled) Config.buildPatience
    (fun _ _ => rfl) (fun s h => (s.mem_enabledAgents .buildEngine).2 (.inr (.inl ⟨rfl, h⟩))) hen hpassed
  obtain ⟨hturns, hpatience⟩ := hover M le_rfl
  exact hpassed M hM ((r M).pick_buildOverdue hturns (Bool.and_eq_true_iff.2 ⟨hen M hM, decide_eq_true hpatience⟩))

/-- Weak fairness for the render engine (70_reset_and_hazards.md R266): enabled and passed over for ever it would become overdue,
and from then on only an overdue build engine could move, whose work runs out. -/
theorem IsRun.renderEngine_fair (n : Nat) :
    ∃ m ≥ n, (r m).status.renderEnabled = false ∨ (r m).pick.1 = some .renderEngine := by
  by_contra! hnever
  have hen (m : Nat) (hm : m ≥ n) : (r m).status.renderEnabled = true := Bool.of_not_eq_false (hnever m hm).1
  have hpassed (m : Nat) (hm : m ≥ n) := (hnever m hm).2
  obtain ⟨M, hM, hover⟩ := hr.eventually_overdue (w := Waits.render) (en := Status.renderEnabled) Config.renderPatience
    (fun _ _ => rfl) (fun s h => (s.mem_enabledAgents .renderEngine).2 (.inr (.inr ⟨rfl, h⟩))) hen hpassed
  have hless (m : Nat) (hm : m ≥ M) : (r (m + 1)).status.buildWork < (r m).status.buildWork := by
    obtain ⟨hturns, hpatience⟩ := hover m hm
    have hrender : (r m).renderOverdue = true := Bool.and_eq_true_iff.2 ⟨hen m (hM.trans hm), decide_eq_true hpatience⟩
    have hbuild : (r m).buildOverdue = true := by
      by_contra hno
      exact hpassed m (hM.trans hm) ((r m).pick_renderOverdue hturns (Bool.eq_false_iff.2 hno) hrender)
    exact step_buildWork_lt (hr m) ((r m).pick_buildOverdue hturns hbuild) (Bool.and_eq_true_iff.1 hbuild).1
  exact not_strictAnti_of_wellFoundedLT (fun k => (r (M + k)).status.buildWork)
    (strictAnti_nat_of_succ_lt fun k => hless (M + k) (Nat.le_add_right M k))

/-- Once nothing requests a build, the build engine's work never grows. -/
theorem IsRun.buildWork_antitone {n : Nat} (hno : ∀ k ≥ n, ¬RequestsBuild (r k)) {m k : Nat} (hm : n ≤ m) (hk : m ≤ k) :
    (r k).status.buildWork ≤ (r m).status.buildWork := by
  induction k, hk using Nat.le_induction with
  | base => exact le_rfl
  | succ k hk ih => exact (step_buildWork_le (hr k) (hno k (hm.trans hk))).trans ih

/-- Once nothing requests a build, the build engine comes to have no step enabled: by fairness it moves until its work is done. -/
theorem IsRun.build_settles {n : Nat} (hno : ∀ k ≥ n, ¬RequestsBuild (r k)) (work : Nat) :
    ∀ m ≥ n, (r m).status.buildWork ≤ work → ∃ k ≥ n, (r k).status.buildEnabled = false := by
  induction work with
  | zero => exact fun m hm hw => ⟨m, hm, (r m).status.buildWork_eq_zero_iff.1 (Nat.le_zero.1 hw)⟩
  | succ work ih =>
    intro m hm hw
    obtain ⟨k, hk, hmove⟩ := hr.buildEngine_fair m
    cases hen : (r k).status.buildEnabled with
    | false => exact ⟨k, hm.trans hk, hen⟩
    | true =>
      have hless := step_buildWork_lt (hr k) (hmove.resolve_left (by rw [hen]; exact Bool.noConfusion)) hen
      have hle := hr.buildWork_antitone hno hm hk
      exact ih (k + 1) (by omega) (by omega)

end

end Sys2Proof.Machine
end

section
/-! The statements about the engines coming to rest and about weak fairness. -/

namespace Sys2Proof.Machine

/-- Settles O57: the engines have at most four steps to take, and with the host idle every step is one of them. -/
theorem enginesComeToRestInFourSteps : Obligations.EnginesComeToRestInFourSteps := by
  intro s hprog hturns
  obtain ⟨t, hrun, hbuild, hrender⟩ := run_to_rest 4 s hprog hturns s.status.engineWork_le
  obtain ⟨hbusy, hpending⟩ := Bool.or_eq_false_iff.1 hbuild
  exact ⟨t, hrun, hpending, hbusy, hrender⟩

/-- Settles O58: an engine passed over for ever would become overdue, and an overdue engine moves. -/
theorem enabledEnginesEventuallyMove : Obligations.EnabledEnginesEventuallyMove :=
  fun _ hr n => ⟨hr.buildEngine_fair n, hr.renderEngine_fair n⟩

/-- Settles O59: the build engine's work comes to 0, and without a request it stays there. -/
theorem buildSettlesAfterLastRequest : Obligations.BuildSettlesAfterLastRequest := by
  intro r n hr hno
  obtain ⟨m, hm, hdone⟩ := hr.build_settles hno _ n le_rfl le_rfl
  refine ⟨m, hm, fun k hk => ?_⟩
  have hle := hr.buildWork_antitone hno hm hk
  rw [(r m).status.buildWork_eq_zero_iff.2 hdone] at hle
  rw [State.readReg_status]
  exact Status.word_build_zero ((r k).status.buildWork_eq_zero_iff.1 (Nat.le_zero.1 hle))

end Sys2Proof.Machine
end
